-- ==== Sys2Proof/Word.lean ====
section
/-! DEFINITION. The word types of the block (spec/00_scope.md R7, R9; spec/10_state.md R14, R15) and the
zero-extension that is the only widening any rule uses (R9). -/

namespace Sys2Proof

/-- One byte lane of a register, one frame byte, and the width of the PIN field (R39, R28, R58). -/
abbrev Byte := BitVec 8

/-- A register of the block: "All registers are 32 bits wide" (R15). -/
abbrev Word := BitVec 32

/-- The width of the microsecond counter CNT and of every value compared with it (R14, R70). -/
abbrev DWord := BitVec 64

/-- A line level: "a level is 1 bit; 0 = low, 1 = high" (spec/92 D2); `true` is 1, high. -/
abbrev Level := Bool

/-- `zext_64(v)` of R9: how a 32-bit delay argument or threshold enters 64-bit arithmetic (R62, R96). -/
def zext64 (v : Word) : DWord := v.setWidth 64

end Sys2Proof
end

