-- ==== Sys2Proof/Syntax.lean ====
section
/-! DEFINITION. The commands of the block (spec/30_encoding.md R57; spec/opcode_table.json): the block has no
instruction set, its "instructions" are the words written to CMD (R1). -/

namespace Sys2Proof

/-- One constructor per row of the opcode table, in the table's order. The delay of DELAY_US and DELAY_MS is no
operand of the word: it is the register ARG (R62, R63). -/
inductive Instr where
  /-- NOW (R71): snapshot the counter. -/
  | now
  /-- DELAY_US (R76): busy-wait for at least ARG microseconds. -/
  | delayUs
  /-- DELAY_MS (R77): wait for at least ARG milliseconds. -/
  | delayMs
  /-- SET_OUTPUT p (R82). -/
  | setOutput (pin : BitVec 8)
  /-- SET_INPUT p (R83). -/
  | setInput (pin : BitVec 8)
  /-- WRITE_LEVEL p, l (R84). -/
  | writeLevel (pin : BitVec 8) (lvl : Level)
  /-- READ_LEVEL p (R85). -/
  | readLevel (pin : BitVec 8)
  /-- READ p (R86): the single-wire read transaction. -/
  | read (pin : BitVec 8)
deriving DecidableEq, Repr

end Sys2Proof
end

