-- ==== Sys2Proof/WellFormed.lean ====
section
/-! DEFINITION. Which commands a block with `numPins` pins has (spec/30_encoding.md R58): PIN must satisfy
PIN < NUM_PINS for the five pin commands. NUM_PINS is OPEN (R7), so it is an argument. -/

namespace Sys2Proof

/-- "it must satisfy `PIN < NUM_PINS`" (R58). -/
def pinExists (numPins : Nat) (pin : BitVec 8) : Bool := decide (pin.toNat < numPins)

/-- The commands a block with `numPins` pins accepts (R58). LVL and RSV have no field that could be wrong in a
term of `Instr`: only WRITE_LEVEL carries a level (R59), and no command carries RSV (R60). -/
def Instr.wellFormed (numPins : Nat) : Instr → Bool
  | .now => true
  | .delayUs => true
  | .delayMs => true
  | .setOutput p => pinExists numPins p
  | .setInput p => pinExists numPins p
  | .writeLevel p _ => pinExists numPins p
  | .readLevel p => pinExists numPins p
  | .read p => pinExists numPins p

end Sys2Proof
end

