-- ==== Sys2Proof/Decode.lean ====
section
/-! DEFINITION. The command decoder of spec/30_encoding.md R61, total over all 2^32 words and rejecting by name
(R58, R59, R60, R64), and the encoder `enc` of R56. -/

namespace Sys2Proof

/-- Why a command word is illegal (R64). The block reports only ILLEGAL_COMMAND(word); the name says which clause
of R64 the word breaks. -/
inductive IllegalWord where
  /-- "any RSV ≠ 0" (R60). -/
  | reservedBits
  /-- "OP = 0x00; OP in 0x09..0xFF" (R57). -/
  | unknownOp
  /-- "PIN ≠ 0 on NOW, DELAY_US or DELAY_MS" (R58). -/
  | pinNotZero
  /-- "PIN ≥ NUM_PINS on a pin command" (R58). -/
  | pinOutOfRange
  /-- "LVL = 1 on any command but WRITE_LEVEL" (R59). -/
  | levelNotZero
deriving DecidableEq, Repr

/-- OP, bits 7:0 (R56). -/
def opField (w : Word) : BitVec 8 := w.extractLsb' 0 8
/-- PIN, bits 15:8 (R56). -/
def pinField (w : Word) : BitVec 8 := w.extractLsb' 8 8
/-- LVL, bit 16 (R56). -/
def lvlField (w : Word) : Level := w.getLsbD 16
/-- RSV, bits 31:17 (R56). -/
def rsvField (w : Word) : BitVec 15 := w.extractLsb' 17 15

/-- The rows 0x01, 0x02, 0x03 of R61: `if pin == 0 and lvl == 0`. -/
def decodePinless (i : Instr) (pin : BitVec 8) (lvl : Level) : Except IllegalWord Instr :=
  if pin ≠ 0 then .error .pinNotZero
  else if lvl then .error .levelNotZero
  else .ok i

/-- The rows of R61 with `if pin <u NUM_PINS`; `i` is the command on that pin. -/
def decodeOnPin (numPins : Nat) (i : Instr) (pin : BitVec 8) : Except IllegalWord Instr :=
  if pinExists numPins pin then .ok i else .error .pinOutOfRange

/-- The rows of R61 with `if pin <u NUM_PINS and lvl == 0`. -/
def decodeOnPinLow (numPins : Nat) (i : Instr) (pin : BitVec 8) (lvl : Level) : Except IllegalWord Instr :=
  if lvl then .error .levelNotZero else decodeOnPin numPins i pin

/-- `decode(w)` of R61 for a block with `numPins` pins. -/
def decode (numPins : Nat) (w : Word) : Except IllegalWord Instr :=
  if rsvField w ≠ 0 then .error .reservedBits
  else match (opField w).toNat with
    | 0x01 => decodePinless .now (pinField w) (lvlField w)
    | 0x02 => decodePinless .delayUs (pinField w) (lvlField w)
    | 0x03 => decodePinless .delayMs (pinField w) (lvlField w)
    | 0x04 => decodeOnPinLow numPins (.setOutput (pinField w)) (pinField w) (lvlField w)
    | 0x05 => decodeOnPinLow numPins (.setInput (pinField w)) (pinField w) (lvlField w)
    | 0x06 => decodeOnPin numPins (.writeLevel (pinField w) (lvlField w)) (pinField w)
    | 0x07 => decodeOnPinLow numPins (.readLevel (pinField w)) (pinField w) (lvlField w)
    | 0x08 => decodeOnPinLow numPins (.read (pinField w)) (pinField w) (lvlField w)
    | _ => .error .unknownOp

/-- `enc(OP, PIN, LVL) = (LVL << 16) | (PIN << 8) | OP` with RSV = 0 (R56). -/
def enc (op pin : BitVec 8) (lvl : Level) : Word :=
  ((BitVec.ofBool lvl).setWidth 32 <<< 16) ||| (pin.setWidth 32 <<< 8) ||| op.setWidth 32

/-- The OP value of each command (R57). -/
def opcodeOf : Instr → BitVec 8
  | .now => 0x01
  | .delayUs => 0x02
  | .delayMs => 0x03
  | .setOutput _ => 0x04
  | .setInput _ => 0x05
  | .writeLevel _ _ => 0x06
  | .readLevel _ => 0x07
  | .read _ => 0x08

/-- The PIN operand of each command, 0 where it has none (R58). -/
def pinOf : Instr → BitVec 8
  | .now => 0
  | .delayUs => 0
  | .delayMs => 0
  | .setOutput p => p
  | .setInput p => p
  | .writeLevel p _ => p
  | .readLevel p => p
  | .read p => p

/-- The LVL operand of each command, 0 where it has none (R59). -/
def lvlOf : Instr → Level
  | .now => false
  | .delayUs => false
  | .delayMs => false
  | .setOutput _ => false
  | .setInput _ => false
  | .writeLevel _ l => l
  | .readLevel _ => false
  | .read _ => false

/-- The command word of a command (R56, R57; the words of R68). -/
def encode (i : Instr) : Word := enc (opcodeOf i) (pinOf i) (lvlOf i)

/-- What the decoder reads from an opcode-table word. The table's row does not say how many pins the block has
(NUM_PINS is OPEN, 1..256, R7): the word is read at 256, where every pin the 8-bit field can name exists
(notes/assumptions/3.md). -/
def decodeTableWord (nbits w : Nat) : Option Instr :=
  (decode 256 (BitVec.ofNat 32 (w % 2 ^ nbits))).toOption

end Sys2Proof
end

