-- ==== Sys2Proof/Config.lean ====
section
/-! DEFINITION. What the outside world can do to the block (spec/00_scope.md R10, R11; spec/70 R133), the
parameters of R7, and the free values of spec/93_implementation_defined.md. A free value is an opaque constant:
nothing in Lean can evaluate it, so every proof holds for every value of it. -/

namespace Sys2Proof

/-- The width of a bus access (R41): byte, halfword, 32-bit word, doubleword. Only `word` is admitted. -/
inductive AccessWidth where
  | byte
  | half
  | word
  | double
deriving DecidableEq, Repr

/-- A read, or a write of a value. The value is a register's 32 bits: a write of another width is a bus error
whatever it carries (R41). -/
inductive BusOp where
  | read
  | write (v : Word)
deriving DecidableEq, Repr

/-- One access of the Host agent to the block's window (R10, R37). `off` is the byte offset from BASE; six bits,
because the window has 64 bytes and an access elsewhere is not an access to the block. -/
structure BusAccess where
  off : BitVec 6
  width : AccessWidth
  op : BusOp
deriving DecidableEq, Repr

/-- What happens next at the block: the step of one agent (R11), or a change of the reset input (R133). The Line
agent is consulted, not scheduled (R11), so it has no constructor: its answers are the state's `lineIn`. -/
inductive Input where
  /-- The Host agent performs one bus access. -/
  | bus (a : BusAccess)
  /-- The Sequencer agent takes one step. -/
  | sequencer
  /-- The Clock agent takes one step, of `more + 1` microseconds: "a drawn natural k ≥ 1" (R69). -/
  | clock (more : Nat)
  /-- The reset input is asserted (`true`) or released (`false`) (R133). -/
  | resetLine (asserted : Bool)
deriving DecidableEq, Repr, Inhabited

/-- The reset values of CFG_WAKE_MS, CFG_SETTLE_US, CFG_THRESH_US and CFG_TIMEOUT: "not constants of any rule", "a model
should take these values as arguments" (R8). -/
structure ConfigDefaults where
  wakeMs : Word
  settleUs : Word
  threshUs : Word
  timeout : Word
deriving DecidableEq, Repr

namespace Config

/-! ### Parameters of R7 with a fixed value -/

/-- `NBITS` = 40: the data bits of one READ. -/
def nbits : Nat := 40
/-- `NWAITS` = 82: the waits of a complete READ. -/
def nwaits : Nat := 82

/-! ### OPEN parameters of R7: constants without a known value -/

/-- NUM_PINS − 1: any of 0..255, so that NUM_PINS is any of 1..256 (R7; spec/92 D3). -/
opaque lastPin : Fin 256
/-- `NUM_PINS`. The rules read the number of pins the state holds; this is the number at `State.reset`. -/
def numPins : Nat := lastPin.val + 1
/-- `BASE`, the bus address of the register window (R37; spec/92 D16). -/
opaque base : Nat
/-- `TIMEOUT_BUDGET_DEFAULT`, the reset value of CFG_TIMEOUT (R31; spec/92 D10). -/
opaque timeoutBudgetDefault : Word
/-- The numbers that R7 and R134 give. No rule reads them: they are `State.defaults` at `State.reset`. -/
def defaults : ConfigDefaults := ⟨10, 40, 40, timeoutBudgetDefault⟩
/-- `SAMPLE_PERIOD`, µs per wait iteration: "OPEN and read by no rule" (R102). -/
opaque samplePeriod : Nat

/-! ### Free values (draws). The first argument is the state's draw counter. -/

/-- What happens next when the state's `inputs` list none: any agent's step, any access, any reset (R11). -/
opaque freeInput (draw : Nat) : Input
/-- The level the Line agent answers for pin `pin` at true time `time` when `lineIn` lists none (R10; U8). -/
opaque freeLevel (draw : Nat) (pin : BitVec 8) (time : Nat) : Level
/-- What READ_LEVEL returns for a pin in output mode (R85; U7). -/
opaque freeOutputLevel (draw : Nat) (pin : BitVec 8) : Level
/-- What FRAME_LO or FRAME_HI reads while BUSY = 1 (R28; U9). -/
opaque freeFrameWord (draw : Nat) : Word
/-- `CNT_INIT`, the counter's value at a reset (R14; U1). -/
opaque cntInit (draw : Nat) : DWord
/-- DIR of pin `pin` at a reset, `true` for output (R33; U6). -/
opaque pinDirAtReset (draw pin : Nat) : Bool
/-- OUT of pin `pin` at a reset (R33; U6). -/
opaque pinOutAtReset (draw pin : Nat) : Level
/-- PU of pin `pin` at a reset (R33; U6). -/
opaque pinPuAtReset (draw pin : Nat) : Bool
/-- PD of pin `pin` at a reset (R33; U6). -/
opaque pinPdAtReset (draw pin : Nat) : Bool

end Config
end Sys2Proof
end

