-- ==== Sys2Proof/Machine/State.lean ====
section
/-! DEFINITION. The state of the block, spec/10_state.md R13: the true time and counter, the host-visible
registers, the pins, the sequencer's internal state and the fault set; and State.reset (spec/70 R134). -/

namespace Sys2Proof.Machine

/-- PHASE, R27: the sequencer phase. -/
inductive Phase where
  /-- 0: no operation runs. -/
  | idle
  /-- 1: DELAY_US or DELAY_MS running. -/
  | delay
  /-- 2: READ holding the line low. -/
  | wake
  /-- 3: READ post-wake delay. -/
  | settle
  /-- 4: wait while high. -/
  | ackLow
  /-- 5: wait while low. -/
  | ackHigh
  /-- 6: wait while low. -/
  | dataLow
  /-- 7: wait while high. -/
  | dataHigh
deriving DecidableEq, Repr

/-- RESULT, R21. The code 3 is "reserved, never produced": it has no constructor. -/
inductive Result where
  | ok
  | checksumError
  | timeoutError
deriving DecidableEq, Repr

/-- CAUSE, R22. The codes 5–7 are "reserved, never produced": they have no constructor. -/
inductive Cause where
  | none
  | ackLow
  | ackHigh
  | dataLow
  | dataHigh
deriving DecidableEq, Repr

/-- DIR[p], R33: 0 = input, 1 = output. -/
inductive Direction where
  | input
  | output
deriving DecidableEq, Repr

/-- The four bits the block holds for a pin (R33). The level on the wire is not block state (R79). -/
structure Pin where
  /-- DIR[p]. -/
  dir : Direction
  /-- OUT[p], the output latch. -/
  out : Level
  /-- PU[p], pull-up enable. -/
  pu : Bool
  /-- PD[p], pull-down enable. -/
  pd : Bool
deriving DecidableEq, Repr

/-- FRAME[0..4], "exactly 5 bytes" (R7, R28): humidity high and low, temperature high and low, checksum. -/
structure Frame where
  b0 : Byte
  b1 : Byte
  b2 : Byte
  b3 : Byte
  b4 : Byte
deriving DecidableEq, Repr

/-- The frame cleared to zero (R28). -/
def Frame.zero : Frame := ⟨0, 0, 0, 0, 0⟩

/-- The interface faults of R117: the elements of FAULTS (R35). Raising one is an effect of a step that goes on
(R118: "the model's state keeps evolving too"), so no step answers the outcome `fault`: the block "never traps,
interrupts, aborts or halts" (R116). Recording them is safe (a claim takes "FAULTS is empty" as a premise). -/
inductive Fault where
  /-- BUS_ERROR (R41–R44, R121, R133): raised by any bus access that is not admitted; records the address
  (BASE + offset), the width and whether it was a write. Safe: the access has no other effect. -/
  | busError (addr : Nat) (width : AccessWidth) (write : Bool)
  /-- ILLEGAL_COMMAND (R120): raised by a CMD write of an illegal word while BUSY = 0. Safe: no command starts. -/
  | illegalCommand (word : Word)
  /-- OVERRUN (R119): raised by a CMD, ARG or CFG_* write while BUSY = 1. Safe: the value is discarded. -/
  | overrun (off : BitVec 6) (value : Word)
deriving DecidableEq, Repr

/-- Why the model could give a command no meaning. -/
inductive Refusal where
  /-- Raised by an arm of exec whose command has no meaning yet; there is none (safe: the run stops). -/
  | notModelled (mnemonic : String)
deriving DecidableEq, Repr

/-- What the bus answered to the Host's most recent access (R45, R121). The model's own field: the block keeps no
copy of it, it is what the host has received. -/
inductive Response where
  /-- No access has been made yet. -/
  | none
  /-- An admitted read returned `v`. -/
  | data (v : Word)
  /-- A write was taken (also one that was an overrun or an illegal command: those report in STATUS). -/
  | written
  /-- The bus's error response (R121). -/
  | error
deriving DecidableEq, Repr

/-- The state. Fields up to `faults` are the spec's (R13; `defaults` by R8); `inReset` is the reset input's level (R133);
`inputs`, `lineIn`, `draws` and `response` are the model's own (notes/assumptions/1.md, 2.md, 5.md, 6.md). -/
structure State where
  /-- T (R14): hidden true time, microseconds since an arbitrary origin. -/
  T : Nat
  /-- CNT_INIT (R14): the counter's value at T = 0, drawn at reset. -/
  cntInit : DWord
  /-- ARG (R17). -/
  arg : Word
  /-- STATUS.BUSY (R19). -/
  busy : Bool
  /-- STATUS.DONE (R20). -/
  done : Bool
  /-- STATUS.RESULT (R21). -/
  result : Result
  /-- STATUS.CAUSE (R22). -/
  cause : Cause
  /-- STATUS.CRIT (R23): the critical-section output. -/
  crit : Bool
  /-- STATUS.LEVEL (R24). -/
  level : Level
  /-- STATUS.OVR (R25). -/
  ovr : Bool
  /-- STATUS.ILL (R25). -/
  ill : Bool
  /-- STATUS.BITIDX (R26). -/
  bitidx : BitVec 6
  /-- STATUS.PHASE (R27). -/
  phase : Phase
  /-- FRAME[0..4] (R28). -/
  frame : Frame
  /-- CSUM_CALC (R28). -/
  csumCalc : Byte
  /-- TIME (R29): TIME_HI ++ TIME_LO. -/
  time : DWord
  /-- LAST (R30): LAST_HI ++ LAST_LO. -/
  last : DWord
  /-- CFG_WAKE_MS (R31). -/
  cfgWakeMs : Word
  /-- CFG_SETTLE_US (R31). -/
  cfgSettleUs : Word
  /-- CFG_THRESH_US (R31). -/
  cfgThreshUs : Word
  /-- CFG_TIMEOUT (R31). -/
  cfgTimeout : Word
  /-- CFG_CTRL.CRIT_EN (R32); CFG_CTRL's other bits read 0. -/
  critEn : Bool
  /-- The pins, one entry per pin: NUM_PINS is the length (R33). -/
  pins : List Pin
  /-- PIN_CUR (R34). -/
  pinCur : BitVec 8
  /-- TCNT (R34). -/
  tcnt : Word
  /-- WAITLVL (R34). -/
  waitLvl : Level
  /-- T0 (R34). -/
  t0 : DWord
  /-- DLY_M (R34). -/
  dlyM : DWord
  /-- DLY_E (R34). -/
  dlyE : DWord
  /-- DLY_WRAP (R34). -/
  dlyWrap : Bool
  /-- K_WAKE (R34). -/
  kWake : Word
  /-- K_SETTLE (R34). -/
  kSettle : Word
  /-- K_THRESH (R34). -/
  kThresh : Word
  /-- K_TIMEOUT (R34). -/
  kTimeout : Word
  /-- K_CRIT (R34). -/
  kCrit : Bool
  /-- What a reset gives the CFG_* registers (R8): an argument of the block, which no step changes
  (notes/assumptions/27.md). -/
  defaults : ConfigDefaults
  /-- FAULTS (R35): a set, kept as a list without repeats. -/
  faults : List Fault
  /-- The reset input is asserted (R133). -/
  inReset : Bool
  /-- What happens next at the block, oldest first; when empty, `Config.freeInput` says (R11). -/
  inputs : List Input
  /-- The Line agent's next answers, oldest first; when empty, `Config.freeLevel` says (R10, R11). -/
  lineIn : List Level
  /-- How many free values have been drawn. -/
  draws : Nat
  /-- The bus's answer to the most recent access. -/
  response : Response
deriving DecidableEq, Repr

/-- DIR, OUT, PU and PD of pin `p` at a reset: a draw per bit (R33, R134). -/
def pinAtReset (draw p : Nat) : Pin where
  dir := if Config.pinDirAtReset draw p then .output else .input
  out := Config.pinOutAtReset draw p
  pu := Config.pinPuAtReset draw p
  pd := Config.pinPdAtReset draw p

/-- The pins `p`, `p+1`, … (`n` of them) at a reset. -/
def pinsAtReset (draw : Nat) : (p n : Nat) → List Pin
  | _, 0 => []
  | p, n + 1 => pinAtReset draw p :: pinsAtReset draw (p + 1) n

/-- The values of R134 for a block with `numPins` pins and the configuration defaults `d` (R8), with the free values drawn
at `draw`. -/
def State.afterReset (d : ConfigDefaults) (numPins draw : Nat) : State where
  T := 0
  cntInit := Config.cntInit draw
  arg := 0
  busy := false
  done := false
  result := .ok
  cause := .none
  crit := false
  level := false
  ovr := false
  ill := false
  bitidx := 0
  phase := .idle
  frame := Frame.zero
  csumCalc := 0
  time := 0
  last := 0
  cfgWakeMs := d.wakeMs
  cfgSettleUs := d.settleUs
  cfgThreshUs := d.threshUs
  cfgTimeout := d.timeout
  critEn := false
  pins := pinsAtReset draw 0 numPins
  pinCur := 0
  tcnt := 0
  waitLvl := false
  t0 := 0
  dlyM := 0
  dlyE := 0
  dlyWrap := false
  kWake := 0
  kSettle := 0
  kThresh := 0
  kTimeout := 0
  kCrit := false
  defaults := d
  faults := []
  inReset := false
  inputs := []
  lineIn := []
  draws := draw + 1
  response := .none

/-- The block right after its reset input was released (R133, R134), with the numbers of R7. -/
def State.reset : State := State.afterReset Config.defaults Config.numPins 0

end Sys2Proof.Machine
end

