-- ==== Sys2Proof/Machine/Ops.lean ====
section
/-! DEFINITION. The named operations over the state that the families share: the counter, the pins, the Line
agent's answers, the next input, the start and the end of an operation, and raising an interface fault (the one
thing this block has in the place of an exception: R116, R118, R124; it has no return, R125). -/

namespace Sys2Proof.Machine

/-! ### The counter -/

/-- `CNT = (CNT_INIT + T) mod 2^64` (R14). -/
def State.cnt (s : State) : DWord := s.cntInit + BitVec.ofNat 64 s.T

/-- `elapsed(a, b) = (b - a) mod 2^64` (R70). -/
def elapsed (a b : DWord) : DWord := b - a

/-! ### Pins (R33) -/

/-- NUM_PINS of this block: the pins it holds (R7, R33). -/
def State.numPins (s : State) : Nat := s.pins.length

/-- The four bits of pin `p`. For a pin the block does not have the value is arbitrary: no command names one
(R58). -/
def State.pin (s : State) (p : BitVec 8) : Pin := s.pins.getD p.toNat ⟨.input, false, false, false⟩

/-- Change the bits of pin `p`, and of no other pin. -/
def modifyPin (p : BitVec 8) (f : Pin → Pin) (s : State) : State :=
  { s with pins := s.pins.modify p.toNat f }

/-- `DIR[p] <- 1; PU[p] <- 0; PD[p] <- 1` (R82; R87 "as SET_OUTPUT"). -/
def makeOutput (x : Pin) : Pin := { x with dir := .output, pu := false, pd := true }

/-- `DIR[p] <- 0; PU[p] <- 1; PD[p] <- 0` (R83; R88 "as SET_INPUT"). -/
def makeInput (x : Pin) : Pin := { x with dir := .input, pu := true, pd := false }

/-- `OUT[p] <- l` (R84). -/
def setLatch (l : Level) (x : Pin) : Pin := { x with out := l }

/-! ### Draws -/

/-- `ReadLine(p)` (R10): the Line agent's answer at this step, and the state that has used it up. -/
def readLine (p : BitVec 8) (s : State) : Level × State :=
  match s.lineIn with
  | l :: rest => (l, { s with lineIn := rest })
  | [] => (Config.freeLevel s.draws p s.T, { s with draws := s.draws + 1 })

/-- What happens next at the block (R11), and the state that has used it up. -/
def nextInput (s : State) : Input × State :=
  match s.inputs with
  | i :: rest => (i, { s with inputs := rest })
  | [] => (Config.freeInput s.draws, { s with draws := s.draws + 1 })

/-! ### Start and end of an operation (R19, R20) -/

/-- The end of a command that completes in its accept step: DONE ← 0 and then DONE ← 1 in one step (R20). -/
def completeAtAccept (s : State) : State := { s with done := true }

/-- The accept step of a command that runs on: `DONE <- 0; BUSY <- 1; PHASE <- ph` (R19, R76, R87). -/
def beginOperation (ph : Phase) (s : State) : State := { s with done := false, busy := true, phase := ph }

/-- `complete(...)`: "set BUSY 0, DONE 1, PHASE IDLE" (R10). -/
def complete (s : State) : State := { s with busy := false, done := true, phase := .idle }

/-! ### Interface faults (R117, R118) -/

/-- `raise Fault(kind)`: add `kind` to FAULTS (R10, R35). -/
def raiseFault (f : Fault) (s : State) : State :=
  { s with faults := if f ∈ s.faults then s.faults else s.faults ++ [f] }

end Sys2Proof.Machine
end

