-- ==== Sys2Proof/Machine/Operands.lean ====
section
/-! DEFINITION. Where operands come from: the delay arguments of spec/30_encoding.md R62, the register map of
spec/10_state.md R15 and the admission of a bus access (spec/20_memory.md R41–R44). -/

namespace Sys2Proof.Machine

/-! ### Delay arguments (R62) -/

/-- `d = zext_64(v)` µs: DELAY_US's ARG and the settle delay (R62). -/
def microseconds (v : Word) : DWord := zext64 v

/-- `d = zext_64(v) × 1000` µs: DELAY_MS's ARG and the wake hold (R62). -/
def milliseconds (v : Word) : DWord := zext64 v * 1000

/-! ### The register map (R15) -/

/-- The registers of R15. -/
inductive Reg where
  | cmd
  | arg
  | status
  | frameLo
  | frameHi
  | timeLo
  | timeHi
  | lastLo
  | lastHi
  | cfgWakeMs
  | cfgSettleUs
  | cfgThreshUs
  | cfgTimeout
  | cfgCtrl
deriving DecidableEq, Repr

/-- The register at a byte offset (R15). None: an offset that is no multiple of 4 (R42) or is unmapped, 0x38 and
0x3C (R43). -/
def regAt (off : BitVec 6) : Option Reg :=
  match off.toNat with
  | 0x00 => some .cmd
  | 0x04 => some .arg
  | 0x08 => some .status
  | 0x0C => some .frameLo
  | 0x10 => some .frameHi
  | 0x14 => some .timeLo
  | 0x18 => some .timeHi
  | 0x1C => some .lastLo
  | 0x20 => some .lastHi
  | 0x24 => some .cfgWakeMs
  | 0x28 => some .cfgSettleUs
  | 0x2C => some .cfgThreshUs
  | 0x30 => some .cfgTimeout
  | 0x34 => some .cfgCtrl
  | _ => none

/-- The byte offset of a register (R15). -/
def regOffset : Reg → BitVec 6
  | .cmd => 0x00
  | .arg => 0x04
  | .status => 0x08
  | .frameLo => 0x0C
  | .frameHi => 0x10
  | .timeLo => 0x14
  | .timeHi => 0x18
  | .lastLo => 0x1C
  | .lastHi => 0x20
  | .cfgWakeMs => 0x24
  | .cfgSettleUs => 0x28
  | .cfgThreshUs => 0x2C
  | .cfgTimeout => 0x30
  | .cfgCtrl => 0x34

/-- The read-only registers: a write to one is a bus error (R44). STATUS is not one of them. -/
def isReadOnly : Reg → Bool
  | .frameLo => true
  | .frameHi => true
  | .timeLo => true
  | .timeHi => true
  | .lastLo => true
  | .lastHi => true
  | .cmd => false
  | .arg => false
  | .status => false
  | .cfgWakeMs => false
  | .cfgSettleUs => false
  | .cfgThreshUs => false
  | .cfgTimeout => false
  | .cfgCtrl => false

/-- The registers a write to which is an overrun while BUSY = 1: CMD, ARG and CFG_* (R119). -/
def isGuarded : Reg → Bool
  | .cmd => true
  | .arg => true
  | .cfgWakeMs => true
  | .cfgSettleUs => true
  | .cfgThreshUs => true
  | .cfgTimeout => true
  | .cfgCtrl => true
  | .status => false
  | .frameLo => false
  | .frameHi => false
  | .timeLo => false
  | .timeHi => false
  | .lastLo => false
  | .lastHi => false

/-- The two halves of the raw frame, which read as a draw while BUSY = 1 (R28). -/
def isFrameReg : Reg → Bool
  | .frameLo => true
  | .frameHi => true
  | .cmd => false
  | .arg => false
  | .status => false
  | .timeLo => false
  | .timeHi => false
  | .lastLo => false
  | .lastHi => false
  | .cfgWakeMs => false
  | .cfgSettleUs => false
  | .cfgThreshUs => false
  | .cfgTimeout => false
  | .cfgCtrl => false

/-! ### Admission of an access -/

/-- The access writes. -/
def isWrite : BusOp → Bool
  | .read => false
  | .write _ => true

/-- The register an access goes to, if it is admitted: 32 bits wide (R41), at a multiple of 4 (R42) that is mapped
(R43), no write to a read-only register (R44), and the reset input not asserted (R133). -/
def admittedReg (s : State) (a : BusAccess) : Option Reg :=
  if s.inReset then none
  else match a.width, regAt a.off with
    | .word, some r => if isWrite a.op && isReadOnly r then none else some r
    | .word, none => none
    | .byte, _ => none
    | .half, _ => none
    | .double, _ => none

/-- The bus address of an access: BASE + offset (R37, R45). -/
def busAddress (a : BusAccess) : Nat := Config.base + a.off.toNat

/-- Byte lane `k` of a register value, bits [8k+7:8k], which a byte-addressed bus puts at `BASE + offset + k`
(R39). Only 32-bit accesses are admitted (R41), so no access reads one lane alone. -/
def byteLane (v : Word) (k : Nat) : Byte := v.extractLsb' (8 * k) 8

end Sys2Proof.Machine
end

