-- ==== Sys2Proof/Machine/Flags.lean ====
section
/-! DEFINITION. STATUS: the codes of its fields, the word a read returns, and the write-1-to-clear of its sticky
bits (spec/10_state.md R18–R27); and the values the other registers read as (R28–R32, R45). -/

namespace Sys2Proof.Machine

/-- The code of RESULT (R21). -/
def resultCode : Result → BitVec 2
  | .ok => 0
  | .checksumError => 1
  | .timeoutError => 2

/-- The code of CAUSE (R22). -/
def causeCode : Cause → BitVec 3
  | .none => 0
  | .ackLow => 1
  | .ackHigh => 2
  | .dataLow => 3
  | .dataHigh => 4

/-- The code of PHASE (R27). -/
def phaseCode : Phase → BitVec 3
  | .idle => 0
  | .delay => 1
  | .wake => 2
  | .settle => 3
  | .ackLow => 4
  | .ackHigh => 5
  | .dataLow => 6
  | .dataHigh => 7

/-- The word a read of STATUS returns, from bit 31 down (R18). -/
def statusWord (s : State) : Word :=
  (0 : BitVec 12) ++ phaseCode s.phase ++ s.bitidx ++ BitVec.ofBool s.ill ++ BitVec.ofBool s.ovr ++
    BitVec.ofBool s.level ++ BitVec.ofBool s.crit ++ causeCode s.cause ++ resultCode s.result ++
    BitVec.ofBool s.done ++ BitVec.ofBool s.busy

/-- A write to STATUS: bit 9 = 1 clears OVR, bit 10 = 1 clears ILL, nothing else changes (R18, R25). -/
def clearSticky (v : Word) (s : State) : State :=
  { s with ovr := s.ovr && !v.getLsbD 9, ill := s.ill && !v.getLsbD 10 }

/-- `FRAME_LO = FRAME[3] ++ FRAME[2] ++ FRAME[1] ++ FRAME[0]` (R28). -/
def frameLoWord (s : State) : Word := s.frame.b3 ++ s.frame.b2 ++ s.frame.b1 ++ s.frame.b0

/-- `FRAME_HI = 0x0000 ++ CSUM_CALC ++ FRAME[4]` (R28). -/
def frameHiWord (s : State) : Word := (0 : BitVec 16) ++ s.csumCalc ++ s.frame.b4

/-- The value a read of a register returns (R45), but for the two frame registers while BUSY = 1. -/
def regValue (s : State) : Reg → Word
  | .cmd => 0
  | .arg => s.arg
  | .status => statusWord s
  | .frameLo => frameLoWord s
  | .frameHi => frameHiWord s
  | .timeLo => s.time.extractLsb' 0 32
  | .timeHi => s.time.extractLsb' 32 32
  | .lastLo => s.last.extractLsb' 0 32
  | .lastHi => s.last.extractLsb' 32 32
  | .cfgWakeMs => s.cfgWakeMs
  | .cfgSettleUs => s.cfgSettleUs
  | .cfgThreshUs => s.cfgThreshUs
  | .cfgTimeout => s.cfgTimeout
  | .cfgCtrl => (BitVec.ofBool s.critEn).setWidth 32

end Sys2Proof.Machine
end

