-- ==== Sys2Proof/Machine/Gpio.lean ====
section
/-! DEFINITION. The GPIO commands (spec/41_gpio.md): SET_OUTPUT, SET_INPUT, WRITE_LEVEL, READ_LEVEL. Each completes
in its accept step (R80). -/

namespace Sys2Proof.Machine

/-- What the block drives onto the wire of pin `p`: OUT[p] with DIR[p] = 1, nothing with DIR[p] = 0 (R79). -/
def drivenLevel (p : BitVec 8) (s : State) : Option Level :=
  match (s.pin p).dir with
  | .output => some (s.pin p).out
  | .input => none

/-- SET_OUTPUT p (R82): `DIR[p] <- 1; PU[p] <- 0; PD[p] <- 1; DONE <- 1`. -/
def execSetOutput (p : BitVec 8) (s : State) : Host.Outcome State Fault Refusal :=
  .next (completeAtAccept (modifyPin p makeOutput s))

/-- SET_INPUT p (R83): `DIR[p] <- 0; PU[p] <- 1; PD[p] <- 0; DONE <- 1`. -/
def execSetInput (p : BitVec 8) (s : State) : Host.Outcome State Fault Refusal :=
  .next (completeAtAccept (modifyPin p makeInput s))

/-- WRITE_LEVEL p, l (R84): `OUT[p] <- l; DONE <- 1`. -/
def execWriteLevel (p : BitVec 8) (l : Level) (s : State) : Host.Outcome State Fault Refusal :=
  .next (completeAtAccept (modifyPin p (setLatch l) s))

/-- What READ_LEVEL returns (R85): the Line agent's answer for an input pin, "any level" for an output pin. -/
def senseLevel (p : BitVec 8) (s : State) : Level × State :=
  match (s.pin p).dir with
  | .input => readLine p s
  | .output => (Config.freeOutputLevel s.draws p, { s with draws := s.draws + 1 })

/-- READ_LEVEL p (R85): `LEVEL <- …; DONE <- 1`. -/
def execReadLevel (p : BitVec 8) (s : State) : Host.Outcome State Fault Refusal :=
  let (l, s) := senseLevel p s
  .next (completeAtAccept { s with level := l })

end Sys2Proof.Machine
end

