-- ==== Sys2Proof/Machine/Timing.lean ====
section
/-! DEFINITION. The timing primitive (spec/40_timing_primitive.md): the Clock agent's step, the delay engine, and
the commands NOW, DELAY_US and DELAY_MS. -/

namespace Sys2Proof.Machine

/-- `T <- T + k` for a drawn k ≥ 1 (R69); k is `more + 1`. -/
def clockStep (more : Nat) (s : State) : State := { s with T := s.T + (more + 1) }

/-- NOW (R71): `TIME <- CNT; DONE <- 1`. -/
def execNow (s : State) : Host.Outcome State Fault Refusal :=
  .next (completeAtAccept { s with time := s.cnt })

/-- `DelayStart(d)` (R72). -/
def delayStart (d : DWord) (s : State) : State :=
  { s with dlyM := s.cnt, dlyE := s.cnt + d, dlyWrap := (s.cnt + d).ult s.cnt }

/-- `DelayStep()` (R73): whether the delay is over in this step, and the state after it. -/
def delayStep (s : State) : Bool × State :=
  let c := s.cnt
  if s.dlyWrap && !c.ult s.dlyM then (false, s)
  else (!c.ult s.dlyE, { s with dlyWrap := false })

/-- DELAY_US (R76), its accept step: `DONE <- 0; BUSY <- 1; PHASE <- DELAY; DelayStart(zext_64(ARG))`. -/
def execDelayUs (s : State) : Host.Outcome State Fault Refusal :=
  .next (delayStart (microseconds s.arg) (beginOperation .delay s))

/-- DELAY_MS (R77), its accept step: as DELAY_US with `DelayStart(zext_64(ARG) * 1000)`. -/
def execDelayMs (s : State) : Host.Outcome State Fault Refusal :=
  .next (delayStart (milliseconds s.arg) (beginOperation .delay s))

/-- The Sequencer's step while PHASE = DELAY (R76): `if DelayStep() then BUSY <- 0; DONE <- 1; PHASE <- IDLE`. -/
def delayPhaseStep (s : State) : State :=
  let (finished, s) := delayStep s
  if finished then complete s else s

end Sys2Proof.Machine
end

