-- ==== Sys2Proof/Machine/Sampler.lean ====
section
/-! DEFINITION. The checksum validator (spec/43_checksum.md) and the READ sequencer (spec/42_sampler.md): the accept
step of READ and every Sequencer step. -/

namespace Sys2Proof.Machine

/-! ### The checksum validator -/

/-- `Checksum8` (R106): the low 8 bits of the sum of the first four bytes, summed in 10 bits. -/
def checksum8 (b0 b1 b2 b3 : Byte) : Byte :=
  (b0.setWidth 10 + b1.setWidth 10 + b2.setWidth 10 + b3.setWidth 10).setWidth 8

/-- R107: Ok if `CSUM_CALC == FRAME[4]`, else ChecksumError. -/
def validate (csum b4 : Byte) : Result := if csum = b4 then .ok else .checksumError

/-! ### The accept step -/

/-- The configuration copies of R87, and PIN_CUR. -/
def copyConfig (p : BitVec 8) (s : State) : State :=
  { s with kWake := s.cfgWakeMs, kSettle := s.cfgSettleUs, kThresh := s.cfgThreshUs,
           kTimeout := s.cfgTimeout, kCrit := s.critEn, pinCur := p }

/-- `FRAME[0..4] <- 0; CSUM_CALC <- 0` (R87, R99). -/
def clearFrame (s : State) : State := { s with frame := Frame.zero, csumCalc := 0 }

/-- READ p (R86), its accept step, in the order of R87 (spec/92 D45). -/
def execRead (p : BitVec 8) (s : State) : Host.Outcome State Fault Refusal :=
  let s := clearFrame (copyConfig p s)
  let s := { s with last := s.cnt, bitidx := 0 }
  let s := modifyPin p (setLatch false) (modifyPin p makeOutput s)
  .next (delayStart (milliseconds s.kWake) (beginOperation .wake s))

/-! ### Waits (R90, R91) -/

/-- `StartWait(ph, lvl)` (R90). -/
def startWait (ph : Phase) (lvl : Level) (s : State) : State :=
  { s with phase := ph, waitLvl := lvl, tcnt := s.kTimeout }

/-- `Timeout(k)` (R99). -/
def timeout (k : Cause) (s : State) : State :=
  complete { clearFrame { s with crit := false } with result := .timeoutError, cause := k }

/-- `Finish()` (R98). -/
def finish (s : State) : State :=
  let csum := checksum8 s.frame.b0 s.frame.b1 s.frame.b2 s.frame.b3
  complete { s with crit := false, csumCalc := csum, result := validate csum s.frame.b4, cause := .none }

/-! ### Bit decision and packing (R96, R97) -/

/-- "A data bit is 1 exactly when its pulse width strictly exceeds the threshold" (R96). -/
def decideBit (width : DWord) (thresh : Word) : Bool := (zext64 thresh).ult width

/-- The value of a byte with bit `j` of a frame byte's arrival order set to `bit`: `b | (bit << (7 - j))` (R95). -/
def orBit (b : Byte) (j : Nat) (bit : Bool) : Byte := b ||| ((BitVec.ofBool bit).setWidth 8 <<< (7 - j))

/-- `FRAME[i div 8] <- FRAME[i div 8] | (bit << (7 - (i mod 8)))` (R95, R97). The index is 0..39 (R95). -/
def packBit (f : Frame) (i : Nat) (bit : Bool) : Frame :=
  match i / 8 with
  | 0 => { f with b0 := orBit f.b0 (i % 8) bit }
  | 1 => { f with b1 := orBit f.b1 (i % 8) bit }
  | 2 => { f with b2 := orBit f.b2 (i % 8) bit }
  | 3 => { f with b3 := orBit f.b3 (i % 8) bit }
  | 4 => { f with b4 := orBit f.b4 (i % 8) bit }
  | _ => f

/-! ### The exits of the four waits (R92–R95); `c` is the counter value of the exit sample -/

/-- `Exit(ACK_LOW, c)` (R92). -/
def exitAckLow (s : State) : State := startWait .ackHigh false s

/-- `Exit(ACK_HIGH, c)` (R93). -/
def exitAckHigh (s : State) : State := startWait .dataLow false s

/-- `Exit(DATA_LOW, c)` (R94). -/
def exitDataLow (c : DWord) (s : State) : State := startWait .dataHigh true { s with t0 := c }

/-- `Exit(DATA_HIGH, c)` (R95). -/
def exitDataHigh (c : DWord) (s : State) : State :=
  let bit := decideBit (elapsed s.t0 c) s.kThresh
  let next := { s with frame := packBit s.frame s.bitidx.toNat bit, bitidx := s.bitidx + 1 }
  if s.bitidx.toNat + 1 < Config.nbits then startWait .dataLow false next else finish next

/-- `WaitStep()` (R91) of a wait whose timeout has cause `k` and whose exit is `exit`: the timeout counter is
checked before the line is sampled, and the level and CNT are read together (spec/92 D11). -/
def waitStep (k : Cause) (exit : DWord → State → State) (s : State) : State :=
  if s.tcnt = 0 then timeout k s
  else
    let (l, s) := readLine s.pinCur s
    if l ≠ s.waitLvl then exit s.cnt s else { s with tcnt := s.tcnt - 1 }

/-! ### The Sequencer's step by phase -/

/-- WAKE (R88). -/
def wakeStep (s : State) : State :=
  let (finished, s) := delayStep s
  if finished then
    let s := modifyPin s.pinCur makeInput (modifyPin s.pinCur (setLatch true) s)
    { delayStart (microseconds s.kSettle) s with phase := .settle }
  else s

/-- SETTLE (R89). -/
def settleStep (s : State) : State :=
  let (finished, s) := delayStep s
  if finished then startWait .ackLow true { s with crit := s.crit || s.kCrit } else s

/-- One step of the Sequencer agent (R11: it "advances a running DELAY_US, DELAY_MS or READ by one step"); with no
operation running it has nothing to advance. -/
def sequencerStep (s : State) : State :=
  match s.phase with
  | .idle => s
  | .delay => delayPhaseStep s
  | .wake => wakeStep s
  | .settle => settleStep s
  | .ackLow => waitStep .ackLow (fun _ => exitAckLow) s
  | .ackHigh => waitStep .ackHigh (fun _ => exitAckHigh) s
  | .dataLow => waitStep .dataLow exitDataLow s
  | .dataHigh => waitStep .dataHigh exitDataHigh s

end Sys2Proof.Machine
end

