-- ==== Sys2Proof/Machine/Dispatch.lean ====
section
/-! DEFINITION. One arm per command: the effect of its accept step (spec/30_encoding.md R57). -/

namespace Sys2Proof.Machine

def exec (i : Instr) (s : State) : Host.Outcome State Fault Refusal :=
  match i with
  | .now => Sys2Proof.Machine.execNow s
  | .delayUs => Sys2Proof.Machine.execDelayUs s
  | .delayMs => Sys2Proof.Machine.execDelayMs s
  | .setOutput pin => Sys2Proof.Machine.execSetOutput pin s
  | .setInput pin => Sys2Proof.Machine.execSetInput pin s
  | .writeLevel pin lvl => Sys2Proof.Machine.execWriteLevel pin lvl s
  | .readLevel pin => Sys2Proof.Machine.execReadLevel pin s
  | .read pin => Sys2Proof.Machine.execRead pin s

end Sys2Proof.Machine
end

