-- ==== Sys2Proof/Machine/Bus.lean ====
section
/-! DEFINITION. The Host agent's step: one bus access (spec/20_memory.md R41–R47), with the interface faults in the
order of spec/60_exceptions.md R122; the reset input (spec/70 R133); and what one agent's step does (R11). -/

namespace Sys2Proof.Machine

/-- BUS_ERROR (R41–R44, R121): recorded in FAULTS, answered by the bus's error response, no other effect. -/
def refuseAccess (a : BusAccess) (s : State) : State :=
  raiseFault (.busError (busAddress a) a.width (isWrite a.op)) { s with response := .error }

/-- OVERRUN (R119): `STATUS.OVR <- 1`, recorded in FAULTS, the written value is discarded. -/
def overrun (off : BitVec 6) (v : Word) (s : State) : State :=
  raiseFault (.overrun off v) { s with ovr := true }

/-- ILLEGAL_COMMAND (R120): `STATUS.ILL <- 1`, recorded in FAULTS, no command starts. -/
def illegalCommand (w : Word) (s : State) : State :=
  raiseFault (.illegalCommand w) { s with ill := true }

/-- A CMD write while BUSY = 0 (R16, R61): a legal word starts its command in this step. -/
def commandWrite (w : Word) (s : State) : Host.Outcome State Fault Refusal :=
  match decode s.numPins w with
  | .error _ => .next (illegalCommand w s)
  | .ok i => exec i s

/-- An admitted read (R45): the register's value, or a draw for FRAME_LO and FRAME_HI while BUSY = 1 (R28). No
register changes (R46). "Every read is idempotent while no other agent steps" (R46) holds of the register's value; that
each read of a busy FRAME is a draw of its own is the model's choice (notes/assumptions/12.md). -/
def busRead (r : Reg) (s : State) : State :=
  if s.busy && isFrameReg r then
    { s with response := .data (Config.freeFrameWord s.draws), draws := s.draws + 1 }
  else { s with response := .data (regValue s r) }

/-- The write rule of a register (R45, R46), for a write that is neither a bus error nor an overrun. The read-only
registers take no write (R44). -/
def registerWrite (r : Reg) (v : Word) (s : State) : Host.Outcome State Fault Refusal :=
  match r with
  | .cmd => commandWrite v s
  | .arg => .next { s with arg := v }
  | .status => .next (clearSticky v s)
  | .cfgWakeMs => .next { s with cfgWakeMs := v }
  | .cfgSettleUs => .next { s with cfgSettleUs := v }
  | .cfgThreshUs => .next { s with cfgThreshUs := v }
  | .cfgTimeout => .next { s with cfgTimeout := v }
  | .cfgCtrl => .next { s with critEn := v.getLsbD 0 }
  | .frameLo => .next s
  | .frameHi => .next s
  | .timeLo => .next s
  | .timeHi => .next s
  | .lastLo => .next s
  | .lastHi => .next s

/-- An admitted write (R119, R122): an overrun if the block is busy and the register is guarded. -/
def busWrite (off : BitVec 6) (r : Reg) (v : Word) (s : State) : Host.Outcome State Fault Refusal :=
  let s := { s with response := .written }
  if s.busy && isGuarded r then .next (overrun off v s) else registerWrite r v s

/-- One bus access, one step (R47), with the priority of R122. -/
def busAccess (a : BusAccess) (s : State) : Host.Outcome State Fault Refusal :=
  match admittedReg s a with
  | none => .next (refuseAccess a s)
  | some r =>
    match a.op with
    | .read => .next (busRead r s)
    | .write v => busWrite a.off r v s

/-- The release of the reset input: "every state element holds the value of rule R134" (R133). The number of pins
and the configuration defaults are the block's (R7, R8); the host's accesses, the Line agent's answers and what the host received are not the
block's state (R13). -/
def releaseReset (s : State) : State :=
  { State.afterReset s.defaults s.numPins s.draws with
      inputs := s.inputs, lineIn := s.lineIn, response := s.response }

/-- The reset input changes (R133). Asserting it stops every agent; releasing it, if it was asserted, gives every
state element its reset value. -/
def resetLineStep (asserted : Bool) (s : State) : State :=
  if asserted then { s with inReset := true }
  else if s.inReset then releaseReset s
  else s

/-- What one input does. "While reset is asserted no agent of the block steps" (R133): the Sequencer and the Clock
change nothing then, and a bus access is a bus error (`admittedReg`). -/
def inputStep (i : Input) (s : State) : Host.Outcome State Fault Refusal :=
  match i with
  | .bus a => busAccess a s
  | .sequencer => .next (if s.inReset then s else sequencerStep s)
  | .clock more => .next (if s.inReset then s else clockStep more s)
  | .resetLine b => .next (resetLineStep b s)

/-- The CMD write that carries the command word `w`. -/
def commandAccess (w : Word) : BusAccess := ⟨regOffset .cmd, .word, .write w⟩

end Sys2Proof.Machine
end

