-- ==== Sys2Proof/Machine/Step.lean ====
section
/-! DEFINITION. One step of the machine: the next input of the state, and what it does (spec/00_scope.md R11). -/

namespace Sys2Proof.Machine

/-- One step of one agent, or one change of the reset input. -/
def step (s : State) : Host.Outcome State Fault Refusal := inputStep (nextInput s).1 (nextInput s).2

/-- `s` with a Host access that writes the command word `w` to CMD as its next input: the block fetches nothing
(R54), the host writes it the words (R56; notes/assumptions/1.md). -/
def State.withFetchWord (s : State) (nbits w : Nat) : State :=
  { s with inputs := .bus (commandAccess (BitVec.ofNat 32 (w % 2 ^ nbits))) :: s.inputs }

end Sys2Proof.Machine
end

