-- ==== Sys2Proof/Machine/Conversion.lean ====
section
/-! DEFINITION. The host-side conversion of a frame to a Reading (spec/44_conversion.md): no part of the block, given
by the spec at the interface (spec/00_scope.md R5). The number format, the rounding and the sentinel are OPEN
(R7, R113, R114), so they are arguments here; the calibration offsets belong to the host process (R115). -/

namespace Sys2Proof.Machine

/-- The OPEN parameters of the conversion for a number format `F` (R114): the number a value stands for, the two
conversion functions ("total functions of their operands alone"), `INVALID_SENTINEL` (R113), and the format's 0.0, the
default of an offset (R115). -/
structure FloatFormat (F : Type) where
  /-- The real number a value of the format stands for. -/
  toRat : F → Rat
  /-- `ConvH(raw, H_OFFSET)`. -/
  convH : Nat → F → F
  /-- `ConvT(sign, mag, T_OFFSET)`. -/
  convT : Bool → Nat → F → F
  /-- `INVALID_SENTINEL`. -/
  sentinel : F
  /-- 0.0. -/
  zero : F
  toRat_zero : toRat zero = 0

/-- The calibration offsets H_OFFSET and T_OFFSET (R115): "host constants, not block registers". -/
structure Calibration (F : Type) where
  hOffset : F
  tOffset : F
deriving DecidableEq, Repr

/-- "They default to 0.0 each" (R7, R115). -/
def defaultCalibration {F : Type} (fmt : FloatFormat F) : Calibration F := ⟨fmt.zero, fmt.zero⟩

/-- `Reading{humidity, temperature, status}` (R110). -/
structure Reading (F : Type) where
  humidity : F
  temperature : F
  status : Result
deriving DecidableEq, Repr

/-- `b0 * 256 + b1`, in tenths of a percent (R111). -/
def humidityRaw (f : Frame) : Nat := f.b0.toNat * 256 + f.b1.toNat

/-- `(b2 & 0x7F) * 256 + b3`, in tenths of a degree (R112). -/
def temperatureMagnitude (f : Frame) : Nat := (f.b2 &&& 0x7F).toNat * 256 + f.b3.toNat

/-- Bit 7 of b2: the temperature is negative (R112). -/
def temperatureNegative (f : Frame) : Bool := f.b2.getLsbD 7

/-- "the exact mathematical result is `raw/10 + H_OFFSET`" (R111). -/
def exactHumidity (raw : Nat) (offset : Rat) : Rat := (raw : Rat) / 10 + offset

/-- `(b2[7] == 1 ? -mag : mag) + T_OFFSET` (R112): sign-magnitude, negated before the offset. -/
def exactTemperature (negative : Bool) (mag : Nat) (offset : Rat) : Rat :=
  (if negative then -((mag : Rat) / 10) else (mag : Rat) / 10) + offset

/-- The named property of R114, for a host with the offsets `cal`: both conversions are within 0.01 of the exact value
for every operand a frame can give, raw 0..65535 (R111) and magnitude 0..32767 (R112). -/
def WithinTolerance {F : Type} (fmt : FloatFormat F) (cal : Calibration F) : Prop :=
  (∀ raw, raw ≤ 65535 →
    |fmt.toRat (fmt.convH raw cal.hOffset) - exactHumidity raw (fmt.toRat cal.hOffset)| ≤ 1 / 100) ∧
  (∀ neg mag, mag ≤ 32767 →
    |fmt.toRat (fmt.convT neg mag cal.tOffset) - exactTemperature neg mag (fmt.toRat cal.tOffset)| ≤ 1 / 100)

/-- The Reading a host with the offsets `cal` builds from RESULT and FRAME after a READ (R110–R113). -/
def hostReading {F : Type} (fmt : FloatFormat F) (cal : Calibration F) (result : Result) (f : Frame) : Reading F :=
  match result with
  | .timeoutError => ⟨fmt.sentinel, fmt.sentinel, .timeoutError⟩
  | .ok => ⟨fmt.convH (humidityRaw f) cal.hOffset,
      fmt.convT (temperatureNegative f) (temperatureMagnitude f) cal.tOffset, .ok⟩
  | .checksumError => ⟨fmt.convH (humidityRaw f) cal.hOffset,
      fmt.convT (temperatureNegative f) (temperatureMagnitude f) cal.tOffset, .checksumError⟩

/-- The process of the host that builds Readings. Its offsets are "process-wide" (R115): every Reading is built with
them. -/
structure HostProcess (F : Type) where
  offsets : Calibration F
  /-- The Readings built so far, oldest first. -/
  readings : List (Reading F)
deriving DecidableEq, Repr

/-- The start of the process: the offsets are "set once at initialization" (R115), and are the defaults if the host sets
none. -/
def HostProcess.init {F : Type} (fmt : FloatFormat F) (set : Option (Calibration F)) : HostProcess F :=
  ⟨set.getD (defaultCalibration fmt), []⟩

/-- The process after one more READ. The offsets are "immutable thereafter" (R115). -/
def HostProcess.record {F : Type} (fmt : FloatFormat F) (result : Result) (f : Frame) (h : HostProcess F) :
    HostProcess F :=
  { h with readings := h.readings ++ [hostReading fmt h.offsets result f] }

end Sys2Proof.Machine
end

