-- ==== Sys2Proof/Machine/HostProgram.lean ====
section
/-! DEFINITION. The host's side of the register interface: the host assembly of spec/30_encoding.md R67 with the names
its statements bind, the command mnemonics of R68, and one turn of a host program against the block. A host program is
no state of the block (R13); it decides which accesses the Host agent makes. -/

namespace Sys2Proof.Machine

/-! ### Names and what they are bound to -/

/-- A name of the host assembly (R67). -/
abbrev HostName := String

/-- What a name is bound to: the 32 bits of a read (R67), or the 64 bits of `NOW64 -> t` (R68). -/
inductive HostValue where
  | word (v : Word)
  | dword (v : DWord)
deriving DecidableEq, Repr

/-- The names bound so far, no name twice. -/
abbrev HostEnv := List (HostName × HostValue)

/-- Binding a name again replaces its value. -/
def bindName (n : HostName) (v : HostValue) (env : HostEnv) : HostEnv := (n, v) :: env.filter (·.1 ≠ n)

/-- The 32-bit value a name is bound to, if it is bound to one. -/
def wordOf (env : HostEnv) (n : HostName) : Option Word :=
  match env.lookup n with
  | some (.word v) => some v
  | some (.dword _) => none
  | none => none

/-- `t = hi ++ lo` of `NOW64 -> t` (R68). -/
def now64Value (lo hi : Word) : DWord := hi ++ lo

/-- `<t> = <hi> ++ <lo>` (R68). Where one of the two is bound to no 32-bit value, nothing is bound
(notes/assumptions/23.md). -/
def bindConcat (n hi lo : HostName) (env : HostEnv) : HostEnv :=
  match wordOf env hi, wordOf env lo with
  | some h, some l => bindName n (.dword (now64Value l h)) env
  | some _, none => env
  | none, _ => env

/-! ### Statements -/

/-- The three statements of the host assembly (R67), `W <reg>, <value>`, `R <reg> -> <name>` and `POLL`, and the
assignment `<t> = <hi> ++ <lo>` that ends the expansion of NOW64 (R68). -/
inductive HostStmt where
  | write (r : Reg) (v : Word)
  | read (r : Reg) (n : HostName)
  | poll
  | concat (n hi lo : HostName)
deriving DecidableEq, Repr

/-- The bus access a statement makes; POLL makes it again and again (R67), and an assignment makes none. -/
def stmtAccess : HostStmt → Option BusAccess
  | .write r v => some ⟨regOffset r, .word, .write v⟩
  | .read r _ => some ⟨regOffset r, .word, .read⟩
  | .poll => some ⟨regOffset .status, .word, .read⟩
  | .concat _ _ _ => none

/-- The name a statement binds to the value it reads: "binding the value to `<name>`", "binding the last STATUS read to
`status`" (R67). -/
def boundName : HostStmt → Option HostName
  | .write _ _ => none
  | .read _ n => some n
  | .poll => some "status"
  | .concat _ _ _ => none

/-- The value an answer of the bus carries. -/
def responseWord : Response → Option Word
  | .data v => some v
  | .none => none
  | .written => none
  | .error => none

/-- The bindings after a statement's access was answered. An error response carries no value and binds nothing
(notes/assumptions/23.md). -/
def bindAnswer (st : HostStmt) (resp : Response) (env : HostEnv) : HostEnv :=
  match boundName st, responseWord resp with
  | some n, some v => bindName n (.word v) env
  | some _, none => env
  | none, _ => env

/-- The bindings after a statement that makes no access, the assignment. -/
def assign (st : HostStmt) (env : HostEnv) : HostEnv :=
  match st with
  | .write _ _ => env
  | .read _ _ => env
  | .poll => env
  | .concat n hi lo => bindConcat n hi lo env

/-- POLL ends with a STATUS read whose BUSY bit is 0 (R67; spec/92 D48). -/
def pollEnds (resp : Response) : Bool :=
  match responseWord resp with
  | some v => !v.getLsbD 0
  | none => false

/-- What is left of a program after its first statement, `st`, was answered. -/
def afterResponse (resp : Response) (st : HostStmt) (rest : List HostStmt) : List HostStmt :=
  match st with
  | .write _ _ => rest
  | .read _ _ => rest
  | .poll => if pollEnds resp then rest else .poll :: rest
  | .concat _ _ _ => rest

/-- A host program under way: the statements that are left, and the names bound so far. -/
structure HostProgram where
  stmts : List HostStmt
  env : HostEnv
deriving DecidableEq, Repr

/-- One turn of a program (R11, R47): what its first statement does, in the program's order (R50). An assignment makes no
access, so it is no step of the block. -/
def hostTurn (p : HostProgram) (s : State) : Host.Outcome (HostProgram × State) Fault Refusal :=
  match p.stmts with
  | [] => .next (p, s)
  | st :: rest =>
    match stmtAccess st with
    | none => .next (⟨rest, assign st p.env⟩, s)
    | some a =>
      match busAccess a s with
      | .next t => .next (⟨afterResponse t.response st rest, bindAnswer st t.response p.env⟩, t)
      | .fault f => .fault f
      | .refused r => .refused r

/-! ### Mnemonics -/

/-- The command mnemonics of R68. -/
inductive HostCommand where
  | now
  | delayUs (n : Word)
  | delayMs (n : Word)
  | setOutput (p : BitVec 8)
  | setInput (p : BitVec 8)
  | writeLevel (p : BitVec 8) (l : Level)
  | readLevel (p : BitVec 8)
  | read (p : BitVec 8)
  /-- `NOW64 -> t`. -/
  | now64 (n : HostName)
deriving DecidableEq, Repr

/-- The trailing POLL, left out by the form with `!` (R68). -/
def trailingPoll (bang : Bool) : List HostStmt := if bang then [] else [.poll]

/-- The expansions of R68; `bang` is the `!` after the mnemonic. -/
def expand (bang : Bool) : HostCommand → List HostStmt
  | .now => [.write .cmd (encode .now)]
  | .delayUs n => [.write .arg n, .write .cmd (encode .delayUs)] ++ trailingPoll bang
  | .delayMs n => [.write .arg n, .write .cmd (encode .delayMs)] ++ trailingPoll bang
  | .setOutput p => [.write .cmd (encode (.setOutput p))]
  | .setInput p => [.write .cmd (encode (.setInput p))]
  | .writeLevel p l => [.write .cmd (encode (.writeLevel p l))]
  | .readLevel p => [.write .cmd (encode (.readLevel p))]
  | .read p => [.write .cmd (encode (.read p))] ++ trailingPoll bang
  | .now64 n =>
    [.write .cmd (encode .now), .read .timeLo "lo", .read .timeHi "hi", .concat n "hi" "lo"]

end Sys2Proof.Machine
end

