-- ==== Sys2Proof/Safety.lean ====
section
/-! DEFINITION. The words the statements about the block are made in: what one step is about (an accepted command, a
Sequencer step, a reset), infinite executions and the Clock's fairness (spec/40 R69), when a delay is over, the waits of
a READ, the end of a run (spec/70 R140), the host's duties (R137), the environment premise IDLE_HIGH (spec/41 R79), and
the invariant of the block. -/

namespace Sys2Proof.Machine

/-! ### What a step is about -/

/-- The next step is the accept step of command `i`: a CMD write, while BUSY = 0, of a word that decodes to `i`
(R16, R61). -/
def Accepts (s : State) (i : Instr) : Prop :=
  ∃ w, (nextInput s).1 = .bus ⟨0x00, .word, .write w⟩ ∧ s.inReset = false ∧ s.busy = false ∧
    decode s.numPins w = .ok i

/-- The next step writes `v` to the register at offset `off`, while BUSY = 0. -/
def WritesIdle (s : State) (off : BitVec 6) (v : Word) : Prop :=
  (nextInput s).1 = .bus ⟨off, .word, .write v⟩ ∧ s.inReset = false ∧ s.busy = false

/-- The next step is one of the Sequencer (R11). -/
def SequencerSteps (s : State) : Prop := (nextInput s).1 = .sequencer ∧ s.inReset = false

/-- The next step releases the reset input (R133). -/
def ReleasesReset (s : State) : Prop := (nextInput s).1 = .resetLine false ∧ s.inReset = true

/-- The next step is one of the Clock (R11, R69). -/
def ClockSteps (s : State) : Prop := (∃ more, (nextInput s).1 = .clock more) ∧ s.inReset = false

/-! ### Infinite executions -/

/-- `e` lists the states of an infinite execution: each is what a step makes of the one before it, but for what the
outside world has put next on the lists of inputs and of line answers (R10, R11). -/
def Execution (e : Nat → State) : Prop :=
  ∀ n, ∃ t, step (e n) = .next t ∧
    e (n + 1) = { t with inputs := (e (n + 1)).inputs, lineIn := (e (n + 1)).lineIn }

/-- "weak fairness of the Clock: in every infinite execution it steps infinitely often" (R69; R11). -/
def ClockFair (e : Nat → State) : Prop := ∀ n, ∃ m, n ≤ m ∧ ClockSteps (e m)

/-- No step of the execution releases the reset input, so true time never starts again. -/
def NeverReset (e : Nat → State) : Prop := ∀ n, ¬ ReleasesReset (e n)

/-- No counter value is passed unseen: a Clock step is of one microsecond, and the Sequencer steps at the true time it
leaves. R69 does not promise this; with the Clock's fairness it rules out the blind spot of R75. -/
def SamplesEveryMicrosecond (e : Nat → State) : Prop :=
  ∀ n, ClockSteps (e n) → (nextInput (e n)).1 = .clock 0 ∧
    ∃ m, n < m ∧ SequencerSteps (e m) ∧ (e m).T = (e n).T + 1

/-! ### What a CMD write does -/

/-- The state after a CMD, ARG or CFG_* write of `v` at offset `off` while BUSY = 1 (R119). -/
def overrunOutcome (off : BitVec 6) (v : Word) (s : State) : State :=
  raiseFault (.overrun off v) { s with response := .written, ovr := true }

/-- The state after a CMD write of an illegal word while BUSY = 0 (R120). -/
def illegalOutcome (w : Word) (s : State) : State :=
  raiseFault (.illegalCommand w) { s with response := .written, ill := true }

/-- What a CMD write of any word with operation `op` does: an overrun while BUSY = 1, an illegal command while
BUSY = 0 if the word is not `legal`, and otherwise a next state that `effect` relates to the state the write was
taken in. -/
def CommandRule (op : BitVec 8) (legal : State → Word → Prop) (effect : Word → State → State → Prop) : Prop :=
  ∀ s w rest, s.inputs = .bus ⟨0x00, .word, .write w⟩ :: rest → s.inReset = false → opField w = op →
    (s.busy = true → step s = .next (overrunOutcome 0x00 w { s with inputs := rest })) ∧
    (s.busy = false → ¬ legal s w → step s = .next (illegalOutcome w { s with inputs := rest })) ∧
    (s.busy = false → legal s w →
      ∃ t, step s = .next t ∧ effect w { s with inputs := rest, response := .written } t)

/-- The legal words of NOW, DELAY_US and DELAY_MS: PIN, LVL and RSV are 0 (R58, R59, R60). -/
def legalPinless (_ : State) (w : Word) : Prop := rsvField w = 0 ∧ pinField w = 0 ∧ lvlField w = false

/-- The legal words of a pin command other than WRITE_LEVEL (R58, R59, R60). -/
def legalOnPin (s : State) (w : Word) : Prop :=
  rsvField w = 0 ∧ lvlField w = false ∧ (pinField w).toNat < s.numPins

/-- A write to CMD, ARG or CFG_* while BUSY = 1 is an overrun (R119): offsets 0x00, 0x04 and 0x24 to 0x34. -/
def WritesWhileBusyAreOverruns : Prop :=
  ∀ s off v rest, s.inputs = .bus ⟨off, .word, .write v⟩ :: rest → s.inReset = false → s.busy = true →
    off ∈ [0x00, 0x04, 0x24, 0x28, 0x2C, 0x30, 0x34] →
    step s = .next (overrunOutcome off v { s with inputs := rest })

/-! ### Pins -/

/-- Between `s` and `t` pin `p` has become `x`, and no other pin has changed. -/
def OnlyPinChanged (p : BitVec 8) (x : Pin) (s t : State) : Prop :=
  t.numPins = s.numPins ∧ t.pin p = x ∧ ∀ q, q ≠ p → t.pin q = s.pin q

/-- The environment premise IDLE_HIGH(p) (R79), for the sample taken in state `s` while nothing outside drives the
wire: with PU[p] = 1 the Line agent answers 1. -/
def IdleHigh (p : BitVec 8) (s : State) : Prop := (s.pin p).pu = true → (readLine p s).1 = true

/-! ### Phases -/

/-- The four phases that sample the line (R91). -/
def isSampling : Phase → Bool
  | .ackLow => true
  | .ackHigh => true
  | .dataLow => true
  | .dataHigh => true
  | .idle => false
  | .delay => false
  | .wake => false
  | .settle => false

/-- The six phases of a running READ (R27). -/
def readRunning : Phase → Bool
  | .wake => true
  | .settle => true
  | .ackLow => true
  | .ackHigh => true
  | .dataLow => true
  | .dataHigh => true
  | .idle => false
  | .delay => false

/-! ### Bus accesses -/

/-- The accesses that are bus errors: any access while reset is asserted (R133), another width than 32 bits (R41),
an offset that is no multiple of 4 (R42), offsets 0x38 and 0x3C (R43), a write to offsets 0x0C to 0x20, the
read-only registers (R44). -/
def IsBusError (s : State) (a : BusAccess) : Prop :=
  s.inReset = true ∨ a.width ≠ .word ∨ a.off.toNat % 4 ≠ 0 ∨ 0x38 ≤ a.off.toNat ∨
    ((∃ v, a.op = .write v) ∧ 0x0C ≤ a.off.toNat ∧ a.off.toNat ≤ 0x20)

/-- An access that keeps the host's duties (R136, R137): it is no bus error, it writes no CMD, ARG or CFG_* while
BUSY = 1, it reads no FRAME while a READ runs ("reads of any register" are free while a DELAY_US or DELAY_MS runs),
and a command word it writes is legal. -/
def KeepsDuty (s : State) (a : BusAccess) : Prop :=
  ∃ r, admittedReg s a = some r ∧
    (readRunning s.phase = true → a.op = .read → isFrameReg r = false) ∧
    (s.busy = true → isWrite a.op = true → isGuarded r = false) ∧
    (∀ w, r = .cmd → a.op = .write w → ∃ i, decode s.numPins w = .ok i)

/-- The throttle duty of R137, "not checked by the block": at least `minUs` (THROTTLE_MIN_US) of true time "between READ
starts". Before the first READ there is no duty, and none reaches across a reset, where true time starts again. -/
def KeepsThrottle (minUs : Nat) (e : Nat → State) : Prop :=
  ∀ i j p q, i < j → Accepts (e i) (.read p) → Accepts (e j) (.read q) →
    (∀ k, i < k → k < j → ¬ ReleasesReset (e k)) → (e i).T + minUs ≤ (e j).T

/-! ### Delays -/

/-- DelayStep() returns true in this step (R73): the counter has wrapped if the delay waits for that, and it is at
or past the target. -/
def DelayOver (s : State) : Prop :=
  (s.dlyWrap = false ∨ s.cnt.toNat < s.dlyM.toNat) ∧ s.dlyE.toNat ≤ s.cnt.toNat

/-- A delay of `d` µs that began at true time `start` is running (R72, R73). -/
structure DelayRunning (start d : Nat) (s : State) : Prop where
  busy : s.busy = true
  phase : s.phase = .delay ∨ s.phase = .wake ∨ s.phase = .settle
  bound : d < 2 ^ 64
  begun : start ≤ s.T
  snapshot : s.dlyM = s.cntInit + BitVec.ofNat 64 start
  target : s.dlyE = s.dlyM + BitVec.ofNat 64 d
  wrapAhead : s.dlyWrap = true → s.dlyE.toNat < s.dlyM.toNat
  wrapSeen : s.dlyWrap = false → s.dlyE.toNat < s.dlyM.toNat → start + (2 ^ 64 - s.dlyM.toNat) ≤ s.T

/-! ### The waits of a READ -/

/-- The level each wait waits while (R92–R95); the other phases wait for none. -/
def waitLevel : Phase → Level
  | .ackLow => true
  | .ackHigh => false
  | .dataLow => false
  | .dataHigh => true
  | .idle => false
  | .delay => false
  | .wake => false
  | .settle => false

/-- `cause(PHASE)` of R91; no other phase times out. -/
def timeoutCause : Phase → Cause
  | .ackLow => .ackLow
  | .ackHigh => .ackHigh
  | .dataLow => .dataLow
  | .dataHigh => .dataHigh
  | .idle => .none
  | .delay => .none
  | .wake => .none
  | .settle => .none

/-- How many waits the running READ has started (R101): the two acknowledge waits, then two for each bit. -/
def waitsStarted (s : State) : Nat :=
  match s.phase with
  | .ackLow => 1
  | .ackHigh => 2
  | .dataLow => 3 + 2 * s.bitidx.toNat
  | .dataHigh => 4 + 2 * s.bitidx.toNat
  | .idle => 0
  | .delay => 0
  | .wake => 0
  | .settle => 0

/-- A bound on the Sequencer steps the sampling phases still take (R101): K_TIMEOUT samples and a timeout step for
each wait not yet started, and what is left of the current one. -/
def samplingBudget (s : State) : Nat :=
  (Config.nwaits - waitsStarted s) * (s.kTimeout.toNat + 1) + s.tcnt.toNat + 1

/-- Bit `i` of the frame in order of arrival: byte `i div 8`, bit position `7 - (i mod 8)` (R97). -/
def frameBit (f : Frame) (i : Nat) : Bool :=
  match i / 8 with
  | 0 => f.b0.getLsbD (7 - i % 8)
  | 1 => f.b1.getLsbD (7 - i % 8)
  | 2 => f.b2.getLsbD (7 - i % 8)
  | 3 => f.b3.getLsbD (7 - i % 8)
  | 4 => f.b4.getLsbD (7 - i % 8)
  | _ => false

/-- The frame after packing the first `n` bits of `bits` into a cleared one (R97). -/
def packBits (bits : Nat → Bool) : Nat → Frame
  | 0 => Frame.zero
  | n + 1 => packBit (packBits bits n) n (bits n)

/-- Two states agree on everything a READ reads again before it writes it (R103), and, once the READ has completed,
on its outcome. -/
structure SameRead (a b : State) : Prop where
  busyA : a.busy = readRunning a.phase
  busyB : b.busy = readRunning b.phase
  noReset : a.inReset = false ∧ b.inReset = false
  phase : a.phase = b.phase
  doneFlag : a.done = b.done
  counter : a.cnt = b.cnt
  bits : a.bitidx = b.bitidx ∧ a.frame = b.frame ∧ a.csumCalc = b.csumCalc ∧ a.crit = b.crit
  config : a.kWake = b.kWake ∧ a.kSettle = b.kSettle ∧ a.kThresh = b.kThresh ∧ a.kTimeout = b.kTimeout ∧
    a.kCrit = b.kCrit
  pin : a.pinCur = b.pinCur ∧ a.pin a.pinCur = b.pin b.pinCur ∧
    a.pinCur.toNat < a.numPins ∧ b.pinCur.toNat < b.numPins
  delay : a.phase = .wake ∨ a.phase = .settle → a.dlyM = b.dlyM ∧ a.dlyE = b.dlyE ∧ a.dlyWrap = b.dlyWrap
  wait : isSampling a.phase = true → a.waitLvl = b.waitLvl ∧ a.tcnt = b.tcnt
  edge : a.phase = .dataHigh → a.t0 = b.t0
  outcome : readRunning a.phase = false → a.result = b.result ∧ a.cause = b.cause

/-! ### Ends (R140) -/

/-- The commands that complete in their accept step (R19, R57). -/
def isImmediate : Instr → Bool
  | .now => true
  | .delayUs => false
  | .delayMs => false
  | .setOutput _ => true
  | .setInput _ => true
  | .writeLevel _ _ => true
  | .readLevel _ => true
  | .read _ => false

/-- The step from `s` to `t` is a command's completing step: "the accept step for an immediate command, and the step that
sets BUSY ← 0 for DELAY_US, DELAY_MS and READ" (R140). -/
def CommandEnds (s t : State) : Prop :=
  (∃ i, isImmediate i = true ∧ Accepts s i) ∨ (SequencerSteps s ∧ s.busy = true ∧ t.busy = false)

/-- A host program runs against the block, and every state on the way meets `ok`: from the program and the block's state
to those after any number of turns of the host and steps of the rest of the machine (R11, R67). The release of the
block's reset is one of these steps: that the program goes on across it, and that it is still one run, is the model's
choice (notes/assumptions/26.md). -/
inductive RunsTo (ok : State → Prop) (c : HostProgram × State) : HostProgram × State → Prop where
  /-- No step. -/
  | start : ok c.2 → RunsTo ok c c
  /-- The host's turn, for the first statement that is left. -/
  | host {p q : HostProgram} {s t : State} :
      RunsTo ok c (p, s) → p.stmts ≠ [] → hostTurn p s = .next (q, t) → ok t → RunsTo ok c (q, t)
  /-- A step of the Sequencer or the Clock, or a change of the reset input. -/
  | other {p : HostProgram} {s t : State} (i : Input) :
      RunsTo ok c (p, s) → (∀ a, i ≠ .bus a) → inputStep i s = .next t → ok t → RunsTo ok c (p, t)

/-- The run that began at `c` has ended in `t`, with the names bound as in `env`: "its last statement has executed and
STATUS.BUSY = 0" (R140). -/
def ProgramEnds (c : HostProgram × State) (env : HostEnv) (t : State) : Prop :=
  RunsTo (fun _ => True) c (⟨[], env⟩, t) ∧ t.busy = false

/-- A good end: the run has ended, and FAULTS was empty in every state of it ("A run with FAULTS non-empty is not a good
end", R140; "A faulted run is never a good final state", R118). That a fault raised before a reset inside the run counts
although the reset empties FAULTS (R134) is the model's choice (notes/assumptions/26.md). -/
def GoodEnd (c : HostProgram × State) (env : HostEnv) (t : State) : Prop :=
  RunsTo (fun u => u.faults = []) c (⟨[], env⟩, t) ∧ t.busy = false

/-! ### The invariant -/

/-- What every step keeps. -/
structure BlockInv (s : State) : Prop where
  /-- "BUSY = 1 exactly when PHASE ≠ 0" (R27). -/
  busyPhase : s.busy = true ↔ s.phase ≠ .idle
  /-- A running command has not completed (R20). -/
  doneIdle : s.busy = true → s.done = false
  /-- The critical-section window (R23, R100). -/
  critWindow : s.crit = (s.kCrit && isSampling s.phase)
  /-- "CAUSE ≠ 0 exactly when RESULT = 2" (R22). -/
  causeResult : s.cause ≠ .none ↔ s.result = .timeoutError
  /-- With no READ running, a timeout has left a zero frame (R99). -/
  timeoutFrame : readRunning s.phase = false → s.result = .timeoutError → s.frame = Frame.zero ∧ s.csumCalc = 0
  /-- With no READ running, RESULT is the validator's verdict on the frame (R106, R107). -/
  verdict : readRunning s.phase = false → s.result ≠ .timeoutError →
    s.csumCalc = checksum8 s.frame.b0 s.frame.b1 s.frame.b2 s.frame.b3 ∧
    s.result = validate s.csumCalc s.frame.b4
  /-- "values 0..40" (R26). -/
  bitidxBound : s.bitidx.toNat ≤ 40
  /-- No data bit before the first DATA_LOW wait (R93). -/
  bitidxStart : s.phase = .wake ∨ s.phase = .settle ∨ s.phase = .ackLow ∨ s.phase = .ackHigh → s.bitidx = 0
  /-- A data bit is sampled only for i = 0..39 (R95). -/
  bitidxData : s.phase = .dataLow ∨ s.phase = .dataHigh → s.bitidx.toNat < 40
  /-- WAITLVL is the phase's level, and TCNT at most its reload value (R90–R95). -/
  waiting : isSampling s.phase = true → s.waitLvl = waitLevel s.phase ∧ s.tcnt.toNat ≤ s.kTimeout.toNat
  /-- PIN_CUR is a pin of the block (R58). -/
  readPin : readRunning s.phase = true → s.pinCur.toNat < s.numPins
  /-- The wake hold drives the pin low (R87). -/
  wakePin : s.phase = .wake → s.pin s.pinCur = ⟨.output, false, false, true⟩
  /-- "The sequencer reads the line only in input mode" (R88, R104(f)). -/
  inputPin : s.phase = .settle ∨ isSampling s.phase = true → s.pin s.pinCur = ⟨.input, true, true, false⟩
  /-- While a READ runs, the bits not yet received are 0 and CSUM_CALC is 0 (R87, R97). -/
  frameTail : readRunning s.phase = true →
    s.csumCalc = 0 ∧ ∀ i, i < 40 → s.bitidx.toNat ≤ i → frameBit s.frame i = false
  /-- FAULTS is a set (R35). -/
  faultSet : s.faults.Nodup
  /-- FAULTS "records the sticky STATUS bits without their clear" (R35). -/
  ovrRecorded : s.ovr = true → ∃ off v, Fault.overrun off v ∈ s.faults
  /-- As `ovrRecorded`, for ILL. -/
  illRecorded : s.ill = true → ∃ w, Fault.illegalCommand w ∈ s.faults

end Sys2Proof.Machine
end

