-- ==== Sys2Proof/Certificates/Slice0/Obligations.lean ====
section
/-! DEFINITION. The statements about the block, for the provers. Each docstring names the rule it formalises. `rest`
is what follows the input the step takes. What a statement says of `inputs`, `lineIn`, `draws` and `response` is about
the model's own fields, which no rule gives (notes/assumptions/1.md, 2.md, 5.md, 6.md). -/

open Sys2Proof Sys2Proof.Machine

/-! ### Encoding -/

/-- Every command a block with `numPins` pins has is decoded from its own word, with every operand (R56–R61). -/
def Obligations.DecodeOfEncodeIsTheCommand : Prop :=
  ∀ (numPins : Nat) (i : Instr), i.wellFormed numPins = true → decode numPins (encode i) = .ok i

/-- A legal word stands for one command, which the block has, and is that command's word (R57, R61): no bit of a
legal word is ignored. -/
def Obligations.LegalWordsAreTheEncodings : Prop :=
  ∀ (numPins : Nat) (w : Word) (i : Instr),
    decode numPins w = .ok i → encode i = w ∧ i.wellFormed numPins = true

/-- R64: the illegal encodings are exactly those listed, and R120: such a word, written while BUSY = 0, sets ILL and is
recorded, and nothing else changes. -/
def Obligations.IllegalWordsAreDroppedAndRecorded : Prop :=
  (∀ (numPins : Nat) (w : Word), (∃ r, decode numPins w = .error r) ↔
    (opField w = 0x00 ∨ 0x09 ≤ (opField w).toNat ∨ rsvField w ≠ 0 ∨
     (opField w ∈ [0x01, 0x02, 0x03] ∧ pinField w ≠ 0) ∨
     (opField w ∈ [0x04, 0x05, 0x06, 0x07, 0x08] ∧ numPins ≤ (pinField w).toNat) ∨
     (opField w ≠ 0x06 ∧ lvlField w = true))) ∧
  (∀ s w rest r, s.inputs = .bus ⟨0x00, .word, .write w⟩ :: rest → s.inReset = false → s.busy = false →
    decode s.numPins w = .error r →
    step s = .next (raiseFault (.illegalCommand w)
      { s with inputs := rest, response := .written, ill := true }))

/-- The command words of R68's table for NOW, DELAY_US 4, DELAY_MS, SET_OUTPUT 4, SET_INPUT 4, WRITE_LEVEL 4, 1,
READ_LEVEL 4 and READ 4, on a block with 8 pins. -/
def Obligations.CommandWordsOfTheSpecDecode : Prop :=
  decode 8 0x00000001 = .ok .now ∧ decode 8 0x00000002 = .ok .delayUs ∧
  decode 8 0x00000003 = .ok .delayMs ∧ decode 8 0x00000404 = .ok (.setOutput 4) ∧
  decode 8 0x00000405 = .ok (.setInput 4) ∧ decode 8 0x00010406 = .ok (.writeLevel 4 true) ∧
  decode 8 0x00000407 = .ok (.readLevel 4) ∧ decode 8 0x00000408 = .ok (.read 4)

/-- R68: the word each mnemonic's expansion writes to CMD, for every pin and level. -/
def Obligations.CommandWordsOfTheMnemonics : Prop :=
  (encode .now).toNat = 1 ∧ (encode .delayUs).toNat = 2 ∧ (encode .delayMs).toNat = 3 ∧
  ∀ (p : BitVec 8) (l : Level),
    (encode (.setOutput p)).toNat = 4 + p.toNat * 0x100 ∧
    (encode (.setInput p)).toNat = 5 + p.toNat * 0x100 ∧
    (encode (.writeLevel p l)).toNat = 6 + p.toNat * 0x100 + l.toNat * 0x10000 ∧
    (encode (.readLevel p)).toNat = 7 + p.toNat * 0x100 ∧
    (encode (.read p)).toNat = 8 + p.toNat * 0x100

/-! ### The step -/

/-- R16, R61: "A write while STATUS.BUSY = 0 is decoded and, if legal, starts the command in the same step": the step
is exec of the decoded command, in the state that has taken the write. -/
def Obligations.StepRunsTheDecodedCommand : Prop :=
  ∀ s w rest i, s.inputs = .bus ⟨0x00, .word, .write w⟩ :: rest → s.inReset = false → s.busy = false →
    decode s.numPins w = .ok i → step s = exec i { s with inputs := rest, response := .written }

/-- R116: "The block never traps, interrupts, aborts or halts": every step of every state answers a next state, and
while BUSY = 0 every command the block has is accepted. -/
def Obligations.TheBlockNeverStops : Prop :=
  (∀ s, ∃ t, step s = .next t) ∧
  ∀ s i rest, s.inputs = .bus ⟨0x00, .word, .write (encode i)⟩ :: rest → s.inReset = false → s.busy = false →
    i.wellFormed s.numPins = true →
    ∃ t, step s = .next t ∧ t.faults = s.faults ∧ t.response = .written ∧ (t.done = true ∨ t.busy = true)

/-! ### The commands -/

/-- R71, NOW: TIME is the counter, DONE is set, nothing else changes; a word with PIN, LVL or RSV ≠ 0 is illegal. -/
def Obligations.NowStoresTheCounterInTime : Prop :=
  (∀ s, exec .now s =
    .next { s with time := BitVec.ofNat 64 (s.cntInit.toNat + s.T), done := true }) ∧
  CommandRule 0x01 legalPinless (fun _ s t =>
    t = { s with time := BitVec.ofNat 64 (s.cntInit.toNat + s.T), done := true })

/-- R76, DELAY_US: the accept step, each Sequencer step while PHASE = DELAY, and the faults. -/
def Obligations.DelayUsRunsUntilTheTarget : Prop :=
  (∀ s, exec .delayUs s = .next { s with
      done := false, busy := true, phase := .delay, dlyM := s.cnt, dlyE := s.cnt + s.arg.setWidth 64,
      dlyWrap := decide ((s.cnt + s.arg.setWidth 64).toNat < s.cnt.toNat) }) ∧
  CommandRule 0x02 legalPinless (fun _ s t => t = { s with
      done := false, busy := true, phase := .delay, dlyM := s.cnt, dlyE := s.cnt + s.arg.setWidth 64,
      dlyWrap := decide ((s.cnt + s.arg.setWidth 64).toNat < s.cnt.toNat) }) ∧
  (∀ s rest, s.inputs = .sequencer :: rest → s.inReset = false → s.phase = .delay →
    (DelayOver s → step s = .next { s with
        inputs := rest, dlyWrap := false, busy := false, done := true, phase := .idle }) ∧
    (¬ DelayOver s → step s = .next { s with
        inputs := rest, dlyWrap := s.dlyWrap && decide (s.dlyM.toNat ≤ s.cnt.toNat) })) ∧
  WritesWhileBusyAreOverruns

/-- R77, DELAY_MS: as DELAY_US with ARG × 1000, a product that loses no bits. -/
def Obligations.DelayMsIsDelayUsTimes1000 : Prop :=
  (∀ s, exec .delayMs s = .next { s with
      done := false, busy := true, phase := .delay, dlyM := s.cnt,
      dlyE := s.cnt + BitVec.ofNat 64 (s.arg.toNat * 1000),
      dlyWrap := decide ((s.cnt + BitVec.ofNat 64 (s.arg.toNat * 1000)).toNat < s.cnt.toNat) }) ∧
  (∀ v : Word, (milliseconds v).toNat = v.toNat * 1000 ∧ v.toNat * 1000 < 2 ^ 42) ∧
  CommandRule 0x03 legalPinless (fun _ s t => t = { s with
      done := false, busy := true, phase := .delay, dlyM := s.cnt,
      dlyE := s.cnt + BitVec.ofNat 64 (s.arg.toNat * 1000),
      dlyWrap := decide ((s.cnt + BitVec.ofNat 64 (s.arg.toNat * 1000)).toNat < s.cnt.toNat) }) ∧
  WritesWhileBusyAreOverruns

/-- R82, SET_OUTPUT p: DIR[p], PU[p], PD[p] and DONE are written, OUT[p] and everything else is kept, and from this step
the pin drives what OUT[p] holds. -/
def Obligations.SetOutputMakesThePinAnOutput : Prop :=
  (∀ s p, p.toNat < s.numPins → ∃ t, exec (.setOutput p) s = .next t ∧
    t = { s with pins := t.pins, done := true } ∧
    OnlyPinChanged p { s.pin p with dir := .output, pu := false, pd := true } s t ∧
    drivenLevel p t = some (s.pin p).out) ∧
  CommandRule 0x04 legalOnPin (fun w s t => t = { s with pins := t.pins, done := true } ∧
    OnlyPinChanged (pinField w) { s.pin (pinField w) with dir := .output, pu := false, pd := true } s t)

/-- R83, SET_INPUT p: DIR[p], PU[p], PD[p] and DONE are written, OUT[p] and everything else is kept, and the pin drives
nothing (R79). -/
def Obligations.SetInputMakesThePinAnInput : Prop :=
  (∀ s p, p.toNat < s.numPins → ∃ t, exec (.setInput p) s = .next t ∧
    t = { s with pins := t.pins, done := true } ∧
    OnlyPinChanged p { s.pin p with dir := .input, pu := true, pd := false } s t ∧ drivenLevel p t = none) ∧
  CommandRule 0x05 legalOnPin (fun w s t => t = { s with pins := t.pins, done := true } ∧
    OnlyPinChanged (pinField w) { s.pin (pinField w) with dir := .input, pu := true, pd := false } s t)

/-- R84, WRITE_LEVEL p, l: OUT[p] and DONE are written and everything else is kept, whatever DIR[p] is; in input mode the
wire is not driven. -/
def Obligations.WriteLevelSetsTheLatch : Prop :=
  (∀ s p l, p.toNat < s.numPins → ∃ t, exec (.writeLevel p l) s = .next t ∧
    t = { s with pins := t.pins, done := true } ∧ OnlyPinChanged p { s.pin p with out := l } s t ∧
    drivenLevel p t = if (s.pin p).dir = .output then some l else none) ∧
  CommandRule 0x06 (fun s w => rsvField w = 0 ∧ (pinField w).toNat < s.numPins)
    (fun w s t => t = { s with pins := t.pins, done := true } ∧
      OnlyPinChanged (pinField w) { s.pin (pinField w) with out := lvlField w } s t)

/-- R85, READ_LEVEL p: for an input pin LEVEL is the Line agent's answer, which is used up; for an output pin it is
some level, about which nothing is said. Only LEVEL, DONE and what was drawn change. -/
def Obligations.ReadLevelSamplesTheLine : Prop :=
  (∀ s p l ls, (s.pin p).dir = .input → s.lineIn = l :: ls →
    exec (.readLevel p) s = .next { s with level := l, lineIn := ls, done := true }) ∧
  (∀ s p, s.lineIn = [] ∨ (s.pin p).dir = .output →
    ∃ l, exec (.readLevel p) s = .next { s with level := l, draws := s.draws + 1, done := true }) ∧
  CommandRule 0x07 legalOnPin (fun w s t =>
    ((s.pin (pinField w)).dir = .input → ∀ l ls, s.lineIn = l :: ls →
      t = { s with level := l, lineIn := ls, done := true }) ∧
    (s.lineIn = [] ∨ (s.pin (pinField w)).dir = .output →
      ∃ l, t = { s with level := l, draws := s.draws + 1, done := true }))

/-- R79: under IDLE_HIGH(p) an input pin whose pull-up is on (as SET_INPUT leaves it) reads 1. -/
def Obligations.IdleHighInputReadsHigh : Prop :=
  ∀ s p t, (s.pin p).dir = .input → (s.pin p).pu = true → IdleHigh p s →
    exec (.readLevel p) s = .next t → t.level = true

/-- R87, READ p, the accept step, whatever BUSY, the old frame and the old result were. -/
def Obligations.ReadAcceptStartsTheHandshake : Prop :=
  (∀ s p, p.toNat < s.numPins → ∃ t, exec (.read p) s = .next t ∧
    t = { s with
      kWake := s.cfgWakeMs, kSettle := s.cfgSettleUs, kThresh := s.cfgThreshUs, kTimeout := s.cfgTimeout,
      kCrit := s.critEn, pinCur := p, frame := ⟨0, 0, 0, 0, 0⟩, csumCalc := 0, last := s.cnt, bitidx := 0,
      done := false, busy := true, pins := t.pins, phase := .wake, dlyM := s.cnt,
      dlyE := s.cnt + BitVec.ofNat 64 (s.cfgWakeMs.toNat * 1000),
      dlyWrap := decide ((s.cnt + BitVec.ofNat 64 (s.cfgWakeMs.toNat * 1000)).toNat < s.cnt.toNat) } ∧
    OnlyPinChanged p ⟨.output, false, false, true⟩ s t) ∧
  CommandRule 0x08 legalOnPin (fun w s t => exec (.read (pinField w)) s = .next t)

/-! ### The counter and the delays -/

/-- R14, R69: only a Clock step changes T, by k ≥ 1 and modulo 2^64 for CNT, and a reset starts it at 0. Under the Clock's
weak fairness true time passes every bound. -/
def Obligations.OnlyTheClockMovesTime : Prop :=
  (∀ s t, step s = .next t →
    (t.T = s.T ∧ t.cntInit = s.cntInit) ∨
    (∃ k, (nextInput s).1 = .clock k ∧ s.inReset = false ∧ t.T = s.T + (k + 1) ∧ t.cntInit = s.cntInit) ∨
    (ReleasesReset s ∧ t.T = 0)) ∧
  (∀ s k rest, s.inputs = .clock k :: rest → s.inReset = false →
    step s = .next { s with inputs := rest, T := s.T + (k + 1) } ∧
    ({ s with T := s.T + (k + 1) } : State).cnt = s.cnt + BitVec.ofNat 64 (k + 1)) ∧
  (∀ e, Execution e → ClockFair e → NeverReset e → ∀ bound, ∃ n, bound ≤ (e n).T)

/-- R70: elapsed(a, b) is the true elapsed time whenever that is below 2^64, across a wrap of the counter too. -/
def Obligations.ElapsedIsTheTrueElapsedTime : Prop :=
  ∀ a b : State, a.cntInit = b.cntInit → a.T ≤ b.T → b.T - a.T < 2 ^ 64 →
    (elapsed a.cnt b.cnt).toNat = b.T - a.T

/-- R72, R73: what a delay's start stores, and what each poll of the counter answers and stores. -/
def Obligations.DelayEngineFollowsTheCounter : Prop :=
  (∀ d s, delayStart d s = { s with
      dlyM := s.cnt, dlyE := BitVec.ofNat 64 (s.cnt.toNat + d.toNat),
      dlyWrap := decide (2 ^ 64 ≤ s.cnt.toNat + d.toNat) }) ∧
  (∀ s, ((delayStep s).1 = true ↔ DelayOver s) ∧
    (delayStep s).2 = { s with dlyWrap := s.dlyWrap && decide (s.dlyM.toNat ≤ s.cnt.toNat) })

/-- R75, the blind spot: a delay that waits for no wrap, whose counter has wrapped below the target between two samples,
goes on, and nothing changes. R11, R75: under the Clock's weak fairness a delay ends if no counter value is passed
between two samples; the premise is the model's (notes/assumptions/24.md). -/
def Obligations.DelayBlindSpotGoesOn : Prop :=
  (∀ s rest, s.inputs = .sequencer :: rest → s.inReset = false →
    s.phase = .delay ∨ s.phase = .wake ∨ s.phase = .settle → s.dlyWrap = false →
    s.cnt.toNat < s.dlyM.toNat → s.dlyM.toNat ≤ s.dlyE.toNat → step s = .next { s with inputs := rest }) ∧
  (∀ e start d, Execution e → ClockFair e → NeverReset e → SamplesEveryMicrosecond e → DelayRunning start d (e 0) →
    ∃ n, DelayRunning start d (e n) ∧ SequencerSteps (e n) ∧ DelayOver (e n))

/-- R74: every delay (DELAY_US, DELAY_MS, the wake hold, the settle delay) runs from its start until a Sequencer step
at which at least d µs of true time have passed; nothing else but a reset ends it. It holds however often the
counter wraps. For DELAY_MS the bound is the spec's own choice (R77; spec/92 D8). -/
def Obligations.DelaysLastAtLeastTheirTime : Prop :=
  (∀ s t, exec .delayUs s = .next t → DelayRunning s.T s.arg.toNat t) ∧
  (∀ s t, exec .delayMs s = .next t → DelayRunning s.T (s.arg.toNat * 1000) t) ∧
  (∀ s t p, exec (.read p) s = .next t → DelayRunning s.T (s.cfgWakeMs.toNat * 1000) t) ∧
  (∀ start d s t, DelayRunning start d s → step s = .next t →
    (DelayRunning start d t ∧ t.phase = s.phase) ∨
    (SequencerSteps s ∧ start + d ≤ t.T ∧
      (s.phase = .wake → DelayRunning s.T s.kSettle.toNat t)) ∨
    ReleasesReset s)

/-- R78: a running delay or READ cannot be cancelled or cut short: BUSY falls only in the Sequencer step that completes it
or by a reset. -/
def Obligations.OnlyCompletionOrResetEndsAnOperation : Prop :=
  ∀ s t, BlockInv s → s.busy = true → step s = .next t → t.busy = false →
    (SequencerSteps s ∧ t.done = true ∧ t.phase = .idle) ∨ ReleasesReset s

/-! ### The READ sequencer -/

/-- R88: the WAKE step. -/
def Obligations.WakeReleasesThePinAfterTheHold : Prop :=
  ∀ s rest, s.inputs = .sequencer :: rest → s.inReset = false → s.phase = .wake →
    s.pinCur.toNat < s.numPins →
    (¬ DelayOver s → step s = .next { s with
        inputs := rest, dlyWrap := s.dlyWrap && decide (s.dlyM.toNat ≤ s.cnt.toNat) }) ∧
    (DelayOver s → ∃ t, step s = .next t ∧
      t = { s with
              inputs := rest, pins := t.pins, phase := .settle, dlyM := s.cnt,
              dlyE := s.cnt + s.kSettle.setWidth 64,
              dlyWrap := decide ((s.cnt + s.kSettle.setWidth 64).toNat < s.cnt.toNat) } ∧
      OnlyPinChanged s.pinCur ⟨.input, true, true, false⟩ s t)

/-- R89: the SETTLE step. -/
def Obligations.SettleStartsTheAcknowledgeWait : Prop :=
  ∀ s rest, s.inputs = .sequencer :: rest → s.inReset = false → s.phase = .settle →
    (¬ DelayOver s → step s = .next { s with
        inputs := rest, dlyWrap := s.dlyWrap && decide (s.dlyM.toNat ≤ s.cnt.toNat) }) ∧
    (DelayOver s → step s = .next { s with
        inputs := rest, dlyWrap := false, crit := s.crit || s.kCrit,
        phase := .ackLow, waitLvl := true, tcnt := s.kTimeout })

/-- R99: a wait whose counter is 0 times out without sampling: the frame is cleared and the cause is the phase's. The pin
stays in input mode with OUT = 1, PU = 1 and PD = 0. -/
def Obligations.ExhaustedWaitTimesOut : Prop :=
  ∀ s rest, s.inputs = .sequencer :: rest → s.inReset = false → isSampling s.phase = true → s.tcnt = 0 →
    ∃ t, step s = .next t ∧
      t = { s with
              inputs := rest, crit := false, frame := ⟨0, 0, 0, 0, 0⟩, csumCalc := 0, result := .timeoutError,
              cause := timeoutCause s.phase, busy := false, done := true, phase := .idle } ∧
      (BlockInv s → t.pin s.pinCur = ⟨.input, true, true, false⟩)

/-- R91: a sample that shows the waited-while level only decrements the counter; where the Line agent's answer is not
listed it is some level. -/
def Obligations.WaitingSampleDecrementsTheCounter : Prop :=
  ∀ s rest, s.inputs = .sequencer :: rest → s.inReset = false → isSampling s.phase = true → s.tcnt ≠ 0 →
    (∀ ls, s.lineIn = s.waitLvl :: ls →
      step s = .next { s with inputs := rest, lineIn := ls, tcnt := s.tcnt - 1 }) ∧
    (s.lineIn = [] → ∃ l, step s = step { s with lineIn := [l], draws := s.draws + 1 })

/-- R92, R93, R94: the exit samples of the acknowledge waits and of DATA_LOW start the next wait with a full counter,
and DATA_LOW's stores the counter value in T0. -/
def Obligations.ExitSampleStartsTheNextWait : Prop :=
  ∀ s rest ls, s.inputs = .sequencer :: rest → s.inReset = false → s.tcnt ≠ 0 →
    s.lineIn = (!s.waitLvl) :: ls →
    (s.phase = .ackLow → step s = .next { s with
      inputs := rest, lineIn := ls, phase := .ackHigh, waitLvl := false, tcnt := s.kTimeout }) ∧
    (s.phase = .ackHigh → step s = .next { s with
      inputs := rest, lineIn := ls, phase := .dataLow, waitLvl := false, tcnt := s.kTimeout }) ∧
    (s.phase = .dataLow → step s = .next { s with
      inputs := rest, lineIn := ls, phase := .dataHigh, waitLvl := true, tcnt := s.kTimeout, t0 := s.cnt })

/-- R95, R96: DATA_HIGH's exit sample for bits 0 to 38 packs the bit, 1 exactly when the width exceeds K_THRESH, at its
place in the frame, keeps every other bit, and starts the next bit's DATA_LOW wait. -/
def Obligations.DataBitIsDecidedAndPacked : Prop :=
  ∀ s rest ls, s.inputs = .sequencer :: rest → s.inReset = false → s.tcnt ≠ 0 →
    s.lineIn = (!s.waitLvl) :: ls → s.phase = .dataHigh → s.bitidx.toNat < 39 →
    ∃ t, step s = .next t ∧
      t = { s with
              inputs := rest, lineIn := ls, frame := t.frame, bitidx := s.bitidx + 1,
              phase := .dataLow, waitLvl := false, tcnt := s.kTimeout } ∧
      (∀ i, i ≠ s.bitidx.toNat → frameBit t.frame i = frameBit s.frame i) ∧
      (frameBit s.frame s.bitidx.toNat = false →
        (frameBit t.frame s.bitidx.toNat = true ↔ s.kThresh.toNat < (s.cnt - s.t0).toNat))

/-- R98: DATA_HIGH's exit sample for bit 39 packs the bit and completes the READ: CSUM_CALC is the checksum of the
completed frame, RESULT the comparison, and FRAME keeps all five bytes in both outcomes. -/
def Obligations.LastBitCompletesTheRead : Prop :=
  ∀ s rest ls, s.inputs = .sequencer :: rest → s.inReset = false → s.tcnt ≠ 0 →
    s.lineIn = (!s.waitLvl) :: ls → s.phase = .dataHigh → s.bitidx = 39 →
    let f := packBit s.frame 39 (decide (s.kThresh.toNat < (s.cnt - s.t0).toNat))
    let sum := (f.b0.toNat + f.b1.toNat + f.b2.toNat + f.b3.toNat) % 256
    step s = .next { s with
      inputs := rest, lineIn := ls, frame := f, bitidx := 40, crit := false, csumCalc := BitVec.ofNat 8 sum,
      result := if f.b4.toNat = sum then .ok else .checksumError, cause := .none,
      busy := false, done := true, phase := .idle }

/-- R96: "`bit = 1 iff width > K_THRESH`", compared as 64-bit unsigned values. -/
def Obligations.BitIsOneIffWidthExceedsThreshold : Prop :=
  ∀ (width : DWord) (thresh : Word), decideBit width thresh = true ↔ width.toNat > thresh.toNat

/-- R97: after the 40 bits of any READ are packed into the cleared frame, byte k is the sum of its bits, the first
received the most significant. -/
def Obligations.FrameIsPackedMostSignificantBitFirst : Prop :=
  ∀ bits : Nat → Bool,
    let byteOf := fun k => (List.range 8).foldl (fun n j => n + (bits (8 * k + j)).toNat * 2 ^ (7 - j)) 0
    (packBits bits 40).b0.toNat = byteOf 0 ∧ (packBits bits 40).b1.toNat = byteOf 1 ∧
    (packBits bits 40).b2.toNat = byteOf 2 ∧ (packBits bits 40).b3.toNat = byteOf 3 ∧
    (packBits bits 40).b4.toNat = byteOf 4

/-- R101: waits are counted one by one: a Sequencer step of a sampling phase stays in its wait, or starts the next one,
or completes the READ, and it completes without a timeout only from the 82nd wait. -/
def Obligations.ACompleteReadHas82Waits : Prop :=
  ∀ s t, BlockInv s → SequencerSteps s → isSampling s.phase = true → step s = .next t →
    (t.phase = s.phase ∧ t.busy = true ∧ waitsStarted t = waitsStarted s ∧ t.tcnt.toNat + 1 = s.tcnt.toNat) ∨
    (isSampling t.phase = true ∧ t.busy = true ∧ waitsStarted t = waitsStarted s + 1 ∧ t.tcnt = s.kTimeout) ∨
    (t.busy = false ∧ t.result = .timeoutError ∧ s.tcnt = 0 ∧ waitsStarted s ≤ 82) ∨
    (t.busy = false ∧ t.result ≠ .timeoutError ∧ waitsStarted s = 82 ∧ t.bitidx = 40)

/-- R101: a READ's sampling phases take at most 82 × (K_TIMEOUT + 1) Sequencer steps: that is the budget when SETTLE
ends, each Sequencer step of a sampling phase ends the READ or lowers the budget, the steps of the other agents leave it
as it is, and from any sampling state so many Sequencer steps as the budget says reach the completion, whatever the
line answers. -/
def Obligations.SamplingIsBoundedBy82Budgets : Prop :=
  (∀ s t, BlockInv s → step s = .next t → s.phase = .settle → isSampling t.phase = true →
    samplingBudget t = 82 * (s.kTimeout.toNat + 1)) ∧
  (∀ s t, BlockInv s → step s = .next t → isSampling s.phase = true → (nextInput s).1 ≠ .sequencer →
    ¬ ReleasesReset s → isSampling t.phase = true ∧ samplingBudget t = samplingBudget s) ∧
  (∀ s t, BlockInv s → SequencerSteps s → isSampling s.phase = true → step s = .next t →
    t.busy = false ∨ (isSampling t.phase = true ∧ samplingBudget t < samplingBudget s)) ∧
  (∀ s, BlockInv s → isSampling s.phase = true →
    ∃ n, n ≤ samplingBudget s ∧ (sequencerStep^[n] s).busy = false)

/-- R103: no earlier operation affects a READ: two blocks with the same configuration and counter that accept the same
READ agree on all a READ reads again, whatever else their states hold; and with the same inputs and line answers
they go on agreeing until both complete, with the same outcome. -/
def Obligations.NoResidualStateAffectsARead : Prop :=
  (∀ a b p a' b', BlockInv a → BlockInv b → a.busy = false → b.busy = false → a.inReset = false → b.inReset = false →
    p.toNat < a.numPins → p.toNat < b.numPins → a.cnt = b.cnt →
    a.cfgWakeMs = b.cfgWakeMs → a.cfgSettleUs = b.cfgSettleUs → a.cfgThreshUs = b.cfgThreshUs →
    a.cfgTimeout = b.cfgTimeout → a.critEn = b.critEn →
    exec (.read p) a = .next a' → exec (.read p) b = .next b' → SameRead a' b') ∧
  (∀ a b i l ra rb la lb a' b', SameRead a b → readRunning a.phase = true →
    a.inputs = i :: ra → b.inputs = i :: rb → a.lineIn = l :: la → b.lineIn = l :: lb →
    (∀ r, i ≠ .resetLine r) → step a = .next a' → step b = .next b' → SameRead a' b')

/-- R103: what a Sequencer step of a running READ writes: nothing but FRAME, CSUM_CALC, RESULT, CAUSE, BITIDX, CRIT,
BUSY, DONE, PHASE, the pin state of PIN_CUR, the sequencer-internal elements and what it draws. -/
def Obligations.SequencerLeavesTheRestAlone : Prop :=
  ∀ s t, SequencerSteps s → step s = .next t →
    t.T = s.T ∧ t.cntInit = s.cntInit ∧ t.arg = s.arg ∧ t.level = s.level ∧ t.ovr = s.ovr ∧ t.ill = s.ill ∧
    t.time = s.time ∧ t.last = s.last ∧ t.cfgWakeMs = s.cfgWakeMs ∧ t.cfgSettleUs = s.cfgSettleUs ∧
    t.cfgThreshUs = s.cfgThreshUs ∧ t.cfgTimeout = s.cfgTimeout ∧ t.critEn = s.critEn ∧ t.faults = s.faults ∧
    t.response = s.response ∧ t.pinCur = s.pinCur ∧ t.kWake = s.kWake ∧ t.kSettle = s.kSettle ∧
    t.kThresh = s.kThresh ∧ t.kTimeout = s.kTimeout ∧ t.kCrit = s.kCrit ∧ t.numPins = s.numPins ∧
    t.defaults = s.defaults ∧ (∀ q, q ≠ s.pinCur → t.pin q = s.pin q)

/-! ### The checksum validator -/

/-- R106: the checksum is the low 8 bits of the sum of the four bytes, and goes to CSUM_CALC. R107 (and the law R109): for
all byte combinations the verdict is Ok if the fifth byte is the sum mod 256, else ChecksumError, and the frame keeps
its bytes. -/
def Obligations.ChecksumLaw : Prop :=
  (∀ b0 b1 b2 b3 : Byte,
    (checksum8 b0 b1 b2 b3).toNat = (b0.toNat + b1.toNat + b2.toNat + b3.toNat) % 256) ∧
  ∀ s : State,
    (s.frame.b4.toNat = (s.frame.b0.toNat + s.frame.b1.toNat + s.frame.b2.toNat + s.frame.b3.toNat) % 256 →
      (finish s).result = .ok) ∧
    (s.frame.b4.toNat ≠ (s.frame.b0.toNat + s.frame.b1.toNat + s.frame.b2.toNat + s.frame.b3.toNat) % 256 →
      (finish s).result = .checksumError) ∧
    (finish s).csumCalc = checksum8 s.frame.b0 s.frame.b1 s.frame.b2 s.frame.b3 ∧ (finish s).frame = s.frame

/-- R21, R22, R108: RESULT and CAUSE change only in the step that completes a READ (or by a reset), and a verdict of the
validator comes only from the exit sample of bit 39. -/
def Obligations.OnlyReadCompletionWritesTheResult : Prop :=
  ∀ s t, BlockInv s → step s = .next t →
    (t.result = s.result ∧ t.cause = s.cause) ∨
    (SequencerSteps s ∧ isSampling s.phase = true ∧ t.busy = false ∧ t.done = true ∧
      ((t.result = .timeoutError ∧ t.cause = timeoutCause s.phase ∧ s.tcnt = 0 ∧ t.csumCalc = 0) ∨
       (t.result ≠ .timeoutError ∧ t.cause = .none ∧ s.phase = .dataHigh ∧ s.bitidx = 39))) ∨
    ReleasesReset s

/-! ### Bus accesses -/

/-- R41–R44, R121, R133: the accesses that are bus errors are exactly these, and one changes nothing but the bus's answer
and FAULTS. -/
def Obligations.BusErrorsHaveNoOtherEffect : Prop :=
  (∀ s a, IsBusError s a ↔ admittedReg s a = none) ∧
  ∀ s a rest, s.inputs = .bus a :: rest → IsBusError s a →
    step s = .next (raiseFault (.busError (Config.base + a.off.toNat) a.width (isWrite a.op))
      { s with inputs := rest, response := .error })

/-- R45, R46: an admitted read returns the register's value and changes no register; FRAME_LO and FRAME_HI return some
value while BUSY = 1; CMD reads 0 in every state (R16). -/
def Obligations.ReadsHaveNoSideEffects : Prop :=
  (∀ s, regValue s .cmd = 0) ∧
  ∀ s r rest, s.inputs = .bus ⟨regOffset r, .word, .read⟩ :: rest → s.inReset = false →
    (s.busy = false ∨ isFrameReg r = false →
      step s = .next { s with inputs := rest, response := .data (regValue s r) }) ∧
    (s.busy = true → isFrameReg r = true →
      ∃ v, step s = .next { s with inputs := rest, response := .data v, draws := s.draws + 1 })

/-- R18: the fields of the word a read of STATUS returns, with the numbers of R21, R22 and R27. -/
def Obligations.StatusWordHasTheFieldsOfR18 : Prop :=
  ∀ s, (regValue s .status).getLsbD 0 = s.busy ∧ (regValue s .status).getLsbD 1 = s.done ∧
    (∀ r n, (r, n) ∈ [(Result.ok, 0), (.checksumError, 1), (.timeoutError, 2)] → s.result = r →
      (regValue s .status).extractLsb' 2 2 = n) ∧
    (∀ c n, (c, n) ∈ [(Cause.none, 0), (.ackLow, 1), (.ackHigh, 2), (.dataLow, 3), (.dataHigh, 4)] → s.cause = c →
      (regValue s .status).extractLsb' 4 3 = n) ∧
    (regValue s .status).getLsbD 7 = s.crit ∧ (regValue s .status).getLsbD 8 = s.level ∧
    (regValue s .status).getLsbD 9 = s.ovr ∧ (regValue s .status).getLsbD 10 = s.ill ∧
    (regValue s .status).extractLsb' 11 6 = s.bitidx ∧
    (∀ p n, (p, n) ∈ [(Phase.idle, 0), (.delay, 1), (.wake, 2), (.settle, 3), (.ackLow, 4), (.ackHigh, 5),
      (.dataLow, 6), (.dataHigh, 7)] → s.phase = p → (regValue s .status).extractLsb' 17 3 = n) ∧
    (regValue s .status).extractLsb' 20 12 = 0

/-- R28, R39, R40: a little-endian reader finds FRAME[k] at BASE + 0x0C + k, and CSUM_CALC and zeros above FRAME[4];
R29, R30: the two halves of TIME and of LAST make up the 64-bit value. -/
def Obligations.FrameTimeAndLastReadInTheirOrder : Prop :=
  ∀ s, byteLane (regValue s .frameLo) 0 = s.frame.b0 ∧ byteLane (regValue s .frameLo) 1 = s.frame.b1 ∧
    byteLane (regValue s .frameLo) 2 = s.frame.b2 ∧ byteLane (regValue s .frameLo) 3 = s.frame.b3 ∧
    byteLane (regValue s .frameHi) 0 = s.frame.b4 ∧ byteLane (regValue s .frameHi) 1 = s.csumCalc ∧
    byteLane (regValue s .frameHi) 2 = 0 ∧ byteLane (regValue s .frameHi) 3 = 0 ∧
    regValue s .timeHi ++ regValue s .timeLo = s.time ∧ regValue s .lastHi ++ regValue s .lastLo = s.last

/-- R119: a CMD, ARG or CFG_* write while BUSY = 1 sets OVR, is recorded, and changes no register, pin or running
operation; a STATUS write is no overrun. -/
def Obligations.OverrunsAreDiscarded : Prop :=
  WritesWhileBusyAreOverruns ∧
  ∀ s v rest, s.inputs = .bus ⟨0x08, .word, .write v⟩ :: rest → s.inReset = false → s.busy = true →
    ∃ t, step s = .next t ∧ t.faults = s.faults ∧ t.ovr = (s.ovr && !v.getLsbD 9)

/-- R25: a STATUS write changes only OVR and ILL, whatever BUSY is: bit 9 clears OVR and bit 10 clears ILL. A set bit
stays set until then (or until a reset). -/
def Obligations.StatusWriteClearsOnlyStickyBits : Prop :=
  (∀ s v rest, s.inputs = .bus ⟨0x08, .word, .write v⟩ :: rest → s.inReset = false →
    step s = .next { s with
      inputs := rest, response := .written, ovr := s.ovr && !v.getLsbD 9, ill := s.ill && !v.getLsbD 10 }) ∧
  (∀ s t, step s = .next t → ReleasesReset s ∨
    ((s.ovr = true → t.ovr = true ∨ ∃ v, (nextInput s).1 = .bus ⟨0x08, .word, .write v⟩ ∧ v.getLsbD 9 = true) ∧
     (s.ill = true → t.ill = true ∨ ∃ v, (nextInput s).1 = .bus ⟨0x08, .word, .write v⟩ ∧ v.getLsbD 10 = true)))

/-- R17, R31, R32: a write to ARG or CFG_* while BUSY = 0 stores its value and changes nothing else; CFG_CTRL keeps bit 0
only; the register then reads as written. -/
def Obligations.ConfigurationWritesStoreTheirValue : Prop :=
  (∀ s v rest, s.inReset = false → s.busy = false →
    (s.inputs = .bus ⟨0x04, .word, .write v⟩ :: rest →
      step s = .next { s with inputs := rest, response := .written, arg := v }) ∧
    (s.inputs = .bus ⟨0x24, .word, .write v⟩ :: rest →
      step s = .next { s with inputs := rest, response := .written, cfgWakeMs := v }) ∧
    (s.inputs = .bus ⟨0x28, .word, .write v⟩ :: rest →
      step s = .next { s with inputs := rest, response := .written, cfgSettleUs := v }) ∧
    (s.inputs = .bus ⟨0x2C, .word, .write v⟩ :: rest →
      step s = .next { s with inputs := rest, response := .written, cfgThreshUs := v }) ∧
    (s.inputs = .bus ⟨0x30, .word, .write v⟩ :: rest →
      step s = .next { s with inputs := rest, response := .written, cfgTimeout := v }) ∧
    (s.inputs = .bus ⟨0x34, .word, .write v⟩ :: rest →
      step s = .next { s with inputs := rest, response := .written, critEn := v.getLsbD 0 })) ∧
  (∀ s : State, regValue s .arg = s.arg ∧ regValue s .cfgWakeMs = s.cfgWakeMs ∧
    regValue s .cfgSettleUs = s.cfgSettleUs ∧ regValue s .cfgThreshUs = s.cfgThreshUs ∧
    regValue s .cfgTimeout = s.cfgTimeout ∧ (regValue s .cfgCtrl).toNat = s.critEn.toNat)

/-- R122: one access raises at most one fault, in this order: BUS_ERROR, OVERRUN, ILLEGAL_COMMAND. -/
def Obligations.OneAccessRaisesAtMostOneFault : Prop :=
  ∀ s t a rest, s.inputs = .bus a :: rest → step s = .next t →
    (IsBusError s a → t.faults = (raiseFault (.busError (busAddress a) a.width (isWrite a.op)) s).faults) ∧
    (∀ v, ¬ IsBusError s a → a.op = .write v → s.busy = true → a.off ≠ 0x08 →
      t.faults = (raiseFault (.overrun a.off v) s).faults) ∧
    (∀ w r, ¬ IsBusError s a → a.op = .write w → a.off = 0x00 → s.busy = false →
      decode s.numPins w = .error r → t.faults = (raiseFault (.illegalCommand w) s).faults) ∧
    (∀ w i, ¬ IsBusError s a → a.op = .write w → a.off = 0x00 → s.busy = false →
      decode s.numPins w = .ok i → t.faults = s.faults) ∧
    (¬ IsBusError s a → a.op = .read ∨ a.off = 0x08 ∨ (s.busy = false ∧ a.off ≠ 0x00) →
      t.faults = s.faults)

/-- R10, R35, R118: raising a fault adds it to the set FAULTS and changes nothing else. -/
def Obligations.RaisingAFaultAddsItToTheSet : Prop :=
  ∀ f s, raiseFault f s = { s with faults := (raiseFault f s).faults } ∧
    (∀ g, g ∈ (raiseFault f s).faults ↔ g = f ∨ g ∈ s.faults) ∧
    (s.faults.Nodup → (raiseFault f s).faults.Nodup)

/-- R137: a host that keeps its duties raises no fault. -/
def Obligations.DutifulHostRaisesNoFault : Prop :=
  ∀ s t a rest, s.inputs = .bus a :: rest → KeepsDuty s a → step s = .next t →
    t.faults = s.faults ∧ t.response ≠ .error

/-- R67, D48: a POLL's reads change nothing but the binding of `status`, and it ends with the read that finds BUSY = 0.
R140: with a POLL for its last statement a program's run has ended when that statement has executed. R67: `R` binds the
register's value to its name and no other name. R68: the turns of `NOW64 -> n`, taken one after the other on an idle block,
bind `n` to the counter. The model's choices, no rule's: a turn of POLL is one STATUS read and each of them binds `status`
(notes/assumptions/23.md); a run that a reset of the block falls in is still one run, and `RunsTo` and so the second clause
cover it (notes/assumptions/26.md). -/
def Obligations.PollWaitsForIdle : Prop :=
  (∀ s stmts env, s.inReset = false → ∃ env',
    hostTurn ⟨.poll :: stmts, env⟩ s = .next
      (⟨if s.busy then .poll :: stmts else stmts, env'⟩, { s with response := .data (regValue s .status) }) ∧
    env'.lookup "status" = some (.word (regValue s .status)) ∧
    ∀ n, n ≠ "status" → env'.lookup n = env.lookup n) ∧
  (∀ c s t env env', RunsTo (fun _ => True) c (⟨[.poll], env⟩, s) → s.inReset = false →
    hostTurn ⟨[.poll], env⟩ s = .next (⟨[], env'⟩, t) → ProgramEnds c env' t) ∧
  (∀ s r n stmts env, s.inReset = false → s.busy = false ∨ isFrameReg r = false → ∃ env',
    hostTurn ⟨.read r n :: stmts, env⟩ s = .next
      (⟨stmts, env'⟩, { s with response := .data (regValue s r) }) ∧
    env'.lookup n = some (.word (regValue s r)) ∧ ∀ m, m ≠ n → env'.lookup m = env.lookup m) ∧
  (∀ s n env, s.inReset = false → s.busy = false → ∃ a b c env',
    hostTurn ⟨expand false (.now64 n), env⟩ s = .next a ∧ hostTurn a.1 a.2 = .next b ∧ hostTurn b.1 b.2 = .next c ∧
    hostTurn c.1 c.2 = .next
      (⟨[], env'⟩, { s with time := s.cnt, done := true, response := .data (s.cnt.extractLsb' 32 32) }) ∧
    env'.lookup n = some (.dword s.cnt))

/-! ### The whole machine -/

/-- Every step keeps the invariant, from every state that meets it, whatever the inputs and draws. -/
def Obligations.EveryStepKeepsTheInvariant : Prop :=
  ∀ s t, BlockInv s → step s = .next t → BlockInv t

/-- The invariant holds after reset, whatever the OPEN parameters and draws are. -/
def Obligations.ResetMeetsTheInvariant : Prop := BlockInv State.reset

/-- R35: no step removes an element of FAULTS, but a reset empties it (R134). -/
def Obligations.FaultsAreNeverForgotten : Prop :=
  ∀ s t, step s = .next t →
    (ReleasesReset s ∧ t.faults = []) ∨ ∀ f, f ∈ s.faults → f ∈ t.faults

/-- R24, R29, R30: TIME changes only in the accept step of NOW, LAST only in that of READ, LEVEL only in that of
READ_LEVEL, each but for a reset, which sets it to 0. -/
def Obligations.SnapshotsChangeOnlyByTheirCommand : Prop :=
  ∀ s t, step s = .next t → (ReleasesReset s ∧ t.time = 0 ∧ t.last = 0 ∧ t.level = false) ∨
    ((t.time = s.time ∨ (Accepts s .now ∧ t.time = s.cnt)) ∧
     (t.last = s.last ∨ ∃ p, Accepts s (.read p) ∧ t.last = s.cnt) ∧
     (t.level = s.level ∨ ∃ p, Accepts s (.readLevel p)))

/-- R17, R31, R32: ARG and CFG_* change only by a host write to them while BUSY = 0, each but for a reset. The
defaults that a reset gives CFG_* never change (R8; notes/assumptions/27.md). -/
def Obligations.ConfigurationChangesOnlyByHostWrites : Prop :=
  ∀ s t, step s = .next t → t.defaults = s.defaults ∧ (ReleasesReset s ∨
    ((t.arg = s.arg ∨ WritesIdle s 0x04 t.arg) ∧
     (t.cfgWakeMs = s.cfgWakeMs ∨ WritesIdle s 0x24 t.cfgWakeMs) ∧
     (t.cfgSettleUs = s.cfgSettleUs ∨ WritesIdle s 0x28 t.cfgSettleUs) ∧
     (t.cfgThreshUs = s.cfgThreshUs ∨ WritesIdle s 0x2C t.cfgThreshUs) ∧
     (t.cfgTimeout = s.cfgTimeout ∨ WritesIdle s 0x30 t.cfgTimeout) ∧
     (t.critEn = s.critEn ∨ ∃ v, WritesIdle s 0x34 v ∧ t.critEn = v.getLsbD 0)))

/-- R33, R38: a pin's bits change only by a command accepted for that pin or by the Sequencer's WAKE step on PIN_CUR,
and the block always has the same number of pins. -/
def Obligations.PinsChangeOnlyByCommandsAndTheSequencer : Prop :=
  ∀ s t, step s = .next t → t.numPins = s.numPins ∧
    (ReleasesReset s ∨ ∀ q, t.pin q = s.pin q ∨
      Accepts s (.setOutput q) ∨ Accepts s (.setInput q) ∨ (∃ l, Accepts s (.writeLevel q l)) ∨
      Accepts s (.read q) ∨ (SequencerSteps s ∧ s.phase = .wake ∧ q = s.pinCur))

/-- R19, R20: an accepted DELAY_US, DELAY_MS or READ leaves BUSY = 1 and DONE = 0, any other command BUSY = 0 and
DONE = 1. BUSY rises and DONE falls only there; DONE rises only in a command's completing step (R140), and is set when
BUSY falls. -/
def Obligations.BusyRisesOnlyForTheLongCommands : Prop :=
  (∀ s t i, Accepts s i → step s = .next t → t.busy = !isImmediate i ∧ t.done = isImmediate i) ∧
  (∀ s t, step s = .next t →
    (s.busy = false → t.busy = true → t.done = false ∧ ∃ i, isImmediate i = false ∧ Accepts s i) ∧
    (s.done = true → t.done = false → ReleasesReset s ∨ ∃ i, isImmediate i = false ∧ Accepts s i) ∧
    (s.busy = true → t.busy = false → ReleasesReset s ∨ t.done = true)) ∧
  (∀ s t, BlockInv s → step s = .next t → s.done = false → t.done = true → CommandEnds s t)

/-- R26: BITIDX is set to 0 by a READ accept, counted up by each completed data bit (DATA_HIGH's exit sample), and changed
by nothing else but a reset. -/
def Obligations.BitidxCountsCompletedBits : Prop :=
  (∀ s t p, Accepts s (.read p) → step s = .next t → t.bitidx = 0) ∧
  (∀ s t, SequencerSteps s → s.phase = .dataHigh → s.tcnt ≠ 0 →
    (readLine s.pinCur (nextInput s).2).1 ≠ s.waitLvl → step s = .next t → t.bitidx = s.bitidx + 1) ∧
  (∀ s t, step s = .next t → ReleasesReset s ∨ t.bitidx = s.bitidx ∨
    ((∃ p, Accepts s (.read p)) ∧ t.bitidx = 0) ∨
    (SequencerSteps s ∧ s.phase = .dataHigh ∧ t.bitidx = s.bitidx + 1))

/-- R51: with no READ running, FRAME, CSUM_CALC, RESULT, CAUSE and BITIDX keep their values until the next READ is
accepted or the block is reset. -/
def Obligations.ReadResultsStayUntilTheNextRead : Prop :=
  ∀ s t, BlockInv s → readRunning s.phase = false → step s = .next t →
    ReleasesReset s ∨ (∃ p, Accepts s (.read p)) ∨
    (t.frame = s.frame ∧ t.csumCalc = s.csumCalc ∧ t.result = s.result ∧ t.cause = s.cause ∧
     t.bitidx = s.bitidx)

/-- R133: while reset is asserted no agent steps and every access is a bus error; its release gives every state element its
reset value, but keeps the number of pins and the configuration defaults, which the CFG_* registers then hold (R8;
notes/assumptions/27.md). That asserting it changes nothing else is the model's choice
(notes/assumptions/9.md), not R133's. -/
def Obligations.ResetInputStopsEveryAgent : Prop :=
  (∀ s rest, s.inputs = .resetLine true :: rest → step s = .next { s with inputs := rest, inReset := true }) ∧
  (∀ s rest, s.inReset = true → s.inputs = .sequencer :: rest → step s = .next { s with inputs := rest }) ∧
  (∀ s k rest, s.inReset = true → s.inputs = .clock k :: rest → step s = .next { s with inputs := rest }) ∧
  (∀ s a rest, s.inReset = true → s.inputs = .bus a :: rest →
    step s = .next (raiseFault (.busError (busAddress a) a.width (isWrite a.op))
      { s with inputs := rest, response := .error })) ∧
  (∀ s rest, s.inReset = true → s.inputs = .resetLine false :: rest → ∃ t, step s = .next t ∧
    t = { State.reset with
            cntInit := t.cntInit, pins := t.pins, inputs := rest, lineIn := s.lineIn,
            draws := s.draws + 1, response := s.response, defaults := s.defaults, cfgWakeMs := s.defaults.wakeMs,
            cfgSettleUs := s.defaults.settleUs, cfgThreshUs := s.defaults.threshUs, cfgTimeout := s.defaults.timeout } ∧ t.numPins = s.numPins)

/-- R134: the values of the state elements after reset; CNT_INIT and the pins are draws. R8: with other configuration
defaults the CFG_* registers hold those (notes/assumptions/27.md). -/
def Obligations.ResetStateIsThatOfR134 : Prop :=
  (∀ d numPins draw, let s := State.afterReset d numPins draw
    s.cfgWakeMs = d.wakeMs ∧ s.cfgSettleUs = d.settleUs ∧ s.cfgThreshUs = d.threshUs ∧ s.cfgTimeout = d.timeout) ∧
  let s := State.reset
  s.T = 0 ∧ s.cnt = s.cntInit ∧ regValue s .cmd = 0 ∧ s.arg = 0 ∧ regValue s .status = 0 ∧
  s.frame = ⟨0, 0, 0, 0, 0⟩ ∧ s.csumCalc = 0 ∧ s.time = 0 ∧ s.last = 0 ∧ s.cfgWakeMs = 10 ∧
  s.cfgSettleUs = 40 ∧ s.cfgThreshUs = 40 ∧ s.cfgTimeout = Config.timeoutBudgetDefault ∧ regValue s .cfgCtrl = 0 ∧
  s.pinCur = 0 ∧ s.tcnt = 0 ∧ s.waitLvl = false ∧ s.t0 = 0 ∧ s.dlyM = 0 ∧ s.dlyE = 0 ∧ s.dlyWrap = false ∧
  s.kWake = 0 ∧ s.kSettle = 0 ∧ s.kThresh = 0 ∧ s.kTimeout = 0 ∧ s.kCrit = false ∧ s.faults = [] ∧
  1 ≤ s.numPins ∧ s.numPins ≤ 256

/-! ### The host's conversion -/

/-- R110–R115: with the offsets of the host's process the Reading's values are within 0.01 of the exact ones, temperature
in sign-magnitude negated before the offset, for a good and for a bad checksum; after a timeout both are the sentinel.
The offsets are 0.0 unless the host sets them, and every Reading of the process is built with them. -/
def Obligations.ReadingIsConvertedFromTheFrame : Prop :=
  ∀ (F : Type) (fmt : FloatFormat F),
    (∀ (cal : Calibration F) (result : Result) (f : Frame), WithinTolerance fmt cal →
      let r := hostReading fmt cal result f
      r.status = result ∧
      (result = .timeoutError → r.humidity = fmt.sentinel ∧ r.temperature = fmt.sentinel) ∧
      (result ≠ .timeoutError →
        |fmt.toRat r.humidity - (((f.b0.toNat * 256 + f.b1.toNat : Nat) : Rat) / 10 + fmt.toRat cal.hOffset)| ≤
          1 / 100 ∧
        (f.b2.toNat < 128 → |fmt.toRat r.temperature -
          (((f.b2.toNat * 256 + f.b3.toNat : Nat) : Rat) / 10 + fmt.toRat cal.tOffset)| ≤ 1 / 100) ∧
        (128 ≤ f.b2.toNat → |fmt.toRat r.temperature -
          (-((((f.b2.toNat - 128) * 256 + f.b3.toNat : Nat) : Rat) / 10) + fmt.toRat cal.tOffset)| ≤ 1 / 100))) ∧
    (fmt.toRat (HostProcess.init fmt none).offsets.hOffset = 0 ∧
      fmt.toRat (HostProcess.init fmt none).offsets.tOffset = 0 ∧
      ∀ cal, (HostProcess.init fmt (some cal)).offsets = cal) ∧
    (∀ result f h, (HostProcess.record fmt result f h).offsets = h.offsets ∧
      (HostProcess.record fmt result f h).readings = h.readings ++ [hostReading fmt h.offsets result f])
end

