-- ==== Sys2Proof/Laws/HostProgram.lean ====
section
/-! SUPPORT. The bindings of a host program, and how its kinds of run relate. -/

namespace Sys2Proof.Machine

@[simp] theorem lookup_bindName_same (n : HostName) (v : HostValue) (env : HostEnv) :
    (bindName n v env).lookup n = some v := by simp [bindName]

theorem lookup_filter_ne {n m : HostName} (h : m ≠ n) (env : HostEnv) :
    (env.filter (·.1 ≠ n)).lookup m = env.lookup m := by
  induction env with
  | nil => rfl
  | cons b env ih =>
    by_cases hb : b.1 = n
    · have hm : (m == b.1) = false := beq_false_of_ne (by rw [hb]; exact h)
      rw [List.filter_cons_of_neg (by simp [hb]), ih, List.lookup, hm]
    · rw [List.filter_cons_of_pos (by simp [hb]), List.lookup, List.lookup, ih]

theorem lookup_bindName_other {n m : HostName} (h : m ≠ n) (v : HostValue) (env : HostEnv) :
    (bindName n v env).lookup m = env.lookup m := by
  have hm : (m == n) = false := beq_false_of_ne h
  rw [bindName, List.lookup, hm]
  exact lookup_filter_ne h env

theorem wordOf_of_lookup {n : HostName} {v : Word} {env : HostEnv} (h : env.lookup n = some (.word v)) :
    wordOf env n = some v := by rw [wordOf, h]

/-- The turn of a statement that makes an access. -/
theorem hostTurn_access {st : HostStmt} {rest : List HostStmt} {env : HostEnv} {s t : State} {a : BusAccess}
    (ha : stmtAccess st = some a) (h : busAccess a s = .next t) : hostTurn ⟨st :: rest, env⟩ s =
      .next (⟨afterResponse t.response st rest, bindAnswer st t.response env⟩, t) := by
  simp only [hostTurn, ha, h]

theorem RunsTo.imp {ok ok' : State → Prop} (h : ∀ s, ok s → ok' s) {c d : HostProgram × State} (r : RunsTo ok c d) :
    RunsTo ok' c d := by
  induction r with
  | start hc => exact .start (h _ hc)
  | host _ hp ht hk ih => exact .host ih hp ht (h _ hk)
  | other i _ hi ht hk ih => exact .other i ih hi ht (h _ hk)

/-- The last state of a run is one of its states. -/
theorem RunsTo.last {ok : State → Prop} {c d : HostProgram × State} (r : RunsTo ok c d) : ok d.2 := by
  cases r <;> assumption

theorem GoodEnd.programEnds {c : HostProgram × State} {env : HostEnv} {t : State} (h : GoodEnd c env t) :
    ProgramEnds c env t := ⟨h.1.imp fun _ _ => trivial, h.2⟩

/-- No interface fault is left at a good end. -/
theorem GoodEnd.faults {c : HostProgram × State} {env : HostEnv} {t : State} (h : GoodEnd c env t) : t.faults = [] :=
  h.1.last

end Sys2Proof.Machine
end

