-- ==== Sys2Proof/Laws/State.lean ====
section
/-! SUPPORT. One lemma per field for each shared operation that updates the record: what it writes, and what it
leaves. No later proof unfolds a record update. -/

namespace Sys2Proof.Machine

variable (s : State)

/-! ### modifyPin -/

@[simp] theorem modifyPin_T (p : BitVec 8) (f : Pin → Pin) : (modifyPin p f s).T = s.T := rfl
@[simp] theorem modifyPin_cntInit (p : BitVec 8) (f : Pin → Pin) : (modifyPin p f s).cntInit = s.cntInit := rfl
@[simp] theorem modifyPin_arg (p : BitVec 8) (f : Pin → Pin) : (modifyPin p f s).arg = s.arg := rfl
@[simp] theorem modifyPin_busy (p : BitVec 8) (f : Pin → Pin) : (modifyPin p f s).busy = s.busy := rfl
@[simp] theorem modifyPin_done (p : BitVec 8) (f : Pin → Pin) : (modifyPin p f s).done = s.done := rfl
@[simp] theorem modifyPin_result (p : BitVec 8) (f : Pin → Pin) : (modifyPin p f s).result = s.result := rfl
@[simp] theorem modifyPin_cause (p : BitVec 8) (f : Pin → Pin) : (modifyPin p f s).cause = s.cause := rfl
@[simp] theorem modifyPin_crit (p : BitVec 8) (f : Pin → Pin) : (modifyPin p f s).crit = s.crit := rfl
@[simp] theorem modifyPin_level (p : BitVec 8) (f : Pin → Pin) : (modifyPin p f s).level = s.level := rfl
@[simp] theorem modifyPin_ovr (p : BitVec 8) (f : Pin → Pin) : (modifyPin p f s).ovr = s.ovr := rfl
@[simp] theorem modifyPin_ill (p : BitVec 8) (f : Pin → Pin) : (modifyPin p f s).ill = s.ill := rfl
@[simp] theorem modifyPin_bitidx (p : BitVec 8) (f : Pin → Pin) : (modifyPin p f s).bitidx = s.bitidx := rfl
@[simp] theorem modifyPin_phase (p : BitVec 8) (f : Pin → Pin) : (modifyPin p f s).phase = s.phase := rfl
@[simp] theorem modifyPin_frame (p : BitVec 8) (f : Pin → Pin) : (modifyPin p f s).frame = s.frame := rfl
@[simp] theorem modifyPin_csumCalc (p : BitVec 8) (f : Pin → Pin) : (modifyPin p f s).csumCalc = s.csumCalc := rfl
@[simp] theorem modifyPin_time (p : BitVec 8) (f : Pin → Pin) : (modifyPin p f s).time = s.time := rfl
@[simp] theorem modifyPin_last (p : BitVec 8) (f : Pin → Pin) : (modifyPin p f s).last = s.last := rfl
@[simp] theorem modifyPin_cfgWakeMs (p : BitVec 8) (f : Pin → Pin) : (modifyPin p f s).cfgWakeMs = s.cfgWakeMs := rfl
@[simp] theorem modifyPin_cfgSettleUs (p : BitVec 8) (f : Pin → Pin) : (modifyPin p f s).cfgSettleUs = s.cfgSettleUs := rfl
@[simp] theorem modifyPin_cfgThreshUs (p : BitVec 8) (f : Pin → Pin) : (modifyPin p f s).cfgThreshUs = s.cfgThreshUs := rfl
@[simp] theorem modifyPin_cfgTimeout (p : BitVec 8) (f : Pin → Pin) : (modifyPin p f s).cfgTimeout = s.cfgTimeout := rfl
@[simp] theorem modifyPin_critEn (p : BitVec 8) (f : Pin → Pin) : (modifyPin p f s).critEn = s.critEn := rfl
@[simp] theorem modifyPin_pins (p : BitVec 8) (f : Pin → Pin) : (modifyPin p f s).pins = s.pins.modify p.toNat f := rfl
@[simp] theorem modifyPin_pinCur (p : BitVec 8) (f : Pin → Pin) : (modifyPin p f s).pinCur = s.pinCur := rfl
@[simp] theorem modifyPin_tcnt (p : BitVec 8) (f : Pin → Pin) : (modifyPin p f s).tcnt = s.tcnt := rfl
@[simp] theorem modifyPin_waitLvl (p : BitVec 8) (f : Pin → Pin) : (modifyPin p f s).waitLvl = s.waitLvl := rfl
@[simp] theorem modifyPin_t0 (p : BitVec 8) (f : Pin → Pin) : (modifyPin p f s).t0 = s.t0 := rfl
@[simp] theorem modifyPin_dlyM (p : BitVec 8) (f : Pin → Pin) : (modifyPin p f s).dlyM = s.dlyM := rfl
@[simp] theorem modifyPin_dlyE (p : BitVec 8) (f : Pin → Pin) : (modifyPin p f s).dlyE = s.dlyE := rfl
@[simp] theorem modifyPin_dlyWrap (p : BitVec 8) (f : Pin → Pin) : (modifyPin p f s).dlyWrap = s.dlyWrap := rfl
@[simp] theorem modifyPin_kWake (p : BitVec 8) (f : Pin → Pin) : (modifyPin p f s).kWake = s.kWake := rfl
@[simp] theorem modifyPin_kSettle (p : BitVec 8) (f : Pin → Pin) : (modifyPin p f s).kSettle = s.kSettle := rfl
@[simp] theorem modifyPin_kThresh (p : BitVec 8) (f : Pin → Pin) : (modifyPin p f s).kThresh = s.kThresh := rfl
@[simp] theorem modifyPin_kTimeout (p : BitVec 8) (f : Pin → Pin) : (modifyPin p f s).kTimeout = s.kTimeout := rfl
@[simp] theorem modifyPin_kCrit (p : BitVec 8) (f : Pin → Pin) : (modifyPin p f s).kCrit = s.kCrit := rfl
@[simp] theorem modifyPin_defaults (p : BitVec 8) (f : Pin → Pin) : (modifyPin p f s).defaults = s.defaults := rfl
@[simp] theorem modifyPin_faults (p : BitVec 8) (f : Pin → Pin) : (modifyPin p f s).faults = s.faults := rfl
@[simp] theorem modifyPin_inReset (p : BitVec 8) (f : Pin → Pin) : (modifyPin p f s).inReset = s.inReset := rfl
@[simp] theorem modifyPin_inputs (p : BitVec 8) (f : Pin → Pin) : (modifyPin p f s).inputs = s.inputs := rfl
@[simp] theorem modifyPin_lineIn (p : BitVec 8) (f : Pin → Pin) : (modifyPin p f s).lineIn = s.lineIn := rfl
@[simp] theorem modifyPin_draws (p : BitVec 8) (f : Pin → Pin) : (modifyPin p f s).draws = s.draws := rfl
@[simp] theorem modifyPin_response (p : BitVec 8) (f : Pin → Pin) : (modifyPin p f s).response = s.response := rfl
@[simp] theorem modifyPin_cnt (p : BitVec 8) (f : Pin → Pin) : (modifyPin p f s).cnt = s.cnt := rfl

/-! ### completeAtAccept -/

@[simp] theorem completeAtAccept_T : (completeAtAccept s).T = s.T := rfl
@[simp] theorem completeAtAccept_cntInit : (completeAtAccept s).cntInit = s.cntInit := rfl
@[simp] theorem completeAtAccept_arg : (completeAtAccept s).arg = s.arg := rfl
@[simp] theorem completeAtAccept_busy : (completeAtAccept s).busy = s.busy := rfl
@[simp] theorem completeAtAccept_done : (completeAtAccept s).done = true := rfl
@[simp] theorem completeAtAccept_result : (completeAtAccept s).result = s.result := rfl
@[simp] theorem completeAtAccept_cause : (completeAtAccept s).cause = s.cause := rfl
@[simp] theorem completeAtAccept_crit : (completeAtAccept s).crit = s.crit := rfl
@[simp] theorem completeAtAccept_level : (completeAtAccept s).level = s.level := rfl
@[simp] theorem completeAtAccept_ovr : (completeAtAccept s).ovr = s.ovr := rfl
@[simp] theorem completeAtAccept_ill : (completeAtAccept s).ill = s.ill := rfl
@[simp] theorem completeAtAccept_bitidx : (completeAtAccept s).bitidx = s.bitidx := rfl
@[simp] theorem completeAtAccept_phase : (completeAtAccept s).phase = s.phase := rfl
@[simp] theorem completeAtAccept_frame : (completeAtAccept s).frame = s.frame := rfl
@[simp] theorem completeAtAccept_csumCalc : (completeAtAccept s).csumCalc = s.csumCalc := rfl
@[simp] theorem completeAtAccept_time : (completeAtAccept s).time = s.time := rfl
@[simp] theorem completeAtAccept_last : (completeAtAccept s).last = s.last := rfl
@[simp] theorem completeAtAccept_cfgWakeMs : (completeAtAccept s).cfgWakeMs = s.cfgWakeMs := rfl
@[simp] theorem completeAtAccept_cfgSettleUs : (completeAtAccept s).cfgSettleUs = s.cfgSettleUs := rfl
@[simp] theorem completeAtAccept_cfgThreshUs : (completeAtAccept s).cfgThreshUs = s.cfgThreshUs := rfl
@[simp] theorem completeAtAccept_cfgTimeout : (completeAtAccept s).cfgTimeout = s.cfgTimeout := rfl
@[simp] theorem completeAtAccept_critEn : (completeAtAccept s).critEn = s.critEn := rfl
@[simp] theorem completeAtAccept_pins : (completeAtAccept s).pins = s.pins := rfl
@[simp] theorem completeAtAccept_pinCur : (completeAtAccept s).pinCur = s.pinCur := rfl
@[simp] theorem completeAtAccept_tcnt : (completeAtAccept s).tcnt = s.tcnt := rfl
@[simp] theorem completeAtAccept_waitLvl : (completeAtAccept s).waitLvl = s.waitLvl := rfl
@[simp] theorem completeAtAccept_t0 : (completeAtAccept s).t0 = s.t0 := rfl
@[simp] theorem completeAtAccept_dlyM : (completeAtAccept s).dlyM = s.dlyM := rfl
@[simp] theorem completeAtAccept_dlyE : (completeAtAccept s).dlyE = s.dlyE := rfl
@[simp] theorem completeAtAccept_dlyWrap : (completeAtAccept s).dlyWrap = s.dlyWrap := rfl
@[simp] theorem completeAtAccept_kWake : (completeAtAccept s).kWake = s.kWake := rfl
@[simp] theorem completeAtAccept_kSettle : (completeAtAccept s).kSettle = s.kSettle := rfl
@[simp] theorem completeAtAccept_kThresh : (completeAtAccept s).kThresh = s.kThresh := rfl
@[simp] theorem completeAtAccept_kTimeout : (completeAtAccept s).kTimeout = s.kTimeout := rfl
@[simp] theorem completeAtAccept_kCrit : (completeAtAccept s).kCrit = s.kCrit := rfl
@[simp] theorem completeAtAccept_defaults : (completeAtAccept s).defaults = s.defaults := rfl
@[simp] theorem completeAtAccept_faults : (completeAtAccept s).faults = s.faults := rfl
@[simp] theorem completeAtAccept_inReset : (completeAtAccept s).inReset = s.inReset := rfl
@[simp] theorem completeAtAccept_inputs : (completeAtAccept s).inputs = s.inputs := rfl
@[simp] theorem completeAtAccept_lineIn : (completeAtAccept s).lineIn = s.lineIn := rfl
@[simp] theorem completeAtAccept_draws : (completeAtAccept s).draws = s.draws := rfl
@[simp] theorem completeAtAccept_response : (completeAtAccept s).response = s.response := rfl
@[simp] theorem completeAtAccept_numPins : (completeAtAccept s).numPins = s.numPins := rfl
@[simp] theorem completeAtAccept_pin (q : BitVec 8) : (completeAtAccept s).pin q = s.pin q := rfl
@[simp] theorem completeAtAccept_cnt : (completeAtAccept s).cnt = s.cnt := rfl

/-! ### beginOperation -/

@[simp] theorem beginOperation_T (ph : Phase) : (beginOperation ph s).T = s.T := rfl
@[simp] theorem beginOperation_cntInit (ph : Phase) : (beginOperation ph s).cntInit = s.cntInit := rfl
@[simp] theorem beginOperation_arg (ph : Phase) : (beginOperation ph s).arg = s.arg := rfl
@[simp] theorem beginOperation_busy (ph : Phase) : (beginOperation ph s).busy = true := rfl
@[simp] theorem beginOperation_done (ph : Phase) : (beginOperation ph s).done = false := rfl
@[simp] theorem beginOperation_result (ph : Phase) : (beginOperation ph s).result = s.result := rfl
@[simp] theorem beginOperation_cause (ph : Phase) : (beginOperation ph s).cause = s.cause := rfl
@[simp] theorem beginOperation_crit (ph : Phase) : (beginOperation ph s).crit = s.crit := rfl
@[simp] theorem beginOperation_level (ph : Phase) : (beginOperation ph s).level = s.level := rfl
@[simp] theorem beginOperation_ovr (ph : Phase) : (beginOperation ph s).ovr = s.ovr := rfl
@[simp] theorem beginOperation_ill (ph : Phase) : (beginOperation ph s).ill = s.ill := rfl
@[simp] theorem beginOperation_bitidx (ph : Phase) : (beginOperation ph s).bitidx = s.bitidx := rfl
@[simp] theorem beginOperation_phase (ph : Phase) : (beginOperation ph s).phase = ph := rfl
@[simp] theorem beginOperation_frame (ph : Phase) : (beginOperation ph s).frame = s.frame := rfl
@[simp] theorem beginOperation_csumCalc (ph : Phase) : (beginOperation ph s).csumCalc = s.csumCalc := rfl
@[simp] theorem beginOperation_time (ph : Phase) : (beginOperation ph s).time = s.time := rfl
@[simp] theorem beginOperation_last (ph : Phase) : (beginOperation ph s).last = s.last := rfl
@[simp] theorem beginOperation_cfgWakeMs (ph : Phase) : (beginOperation ph s).cfgWakeMs = s.cfgWakeMs := rfl
@[simp] theorem beginOperation_cfgSettleUs (ph : Phase) : (beginOperation ph s).cfgSettleUs = s.cfgSettleUs := rfl
@[simp] theorem beginOperation_cfgThreshUs (ph : Phase) : (beginOperation ph s).cfgThreshUs = s.cfgThreshUs := rfl
@[simp] theorem beginOperation_cfgTimeout (ph : Phase) : (beginOperation ph s).cfgTimeout = s.cfgTimeout := rfl
@[simp] theorem beginOperation_critEn (ph : Phase) : (beginOperation ph s).critEn = s.critEn := rfl
@[simp] theorem beginOperation_pins (ph : Phase) : (beginOperation ph s).pins = s.pins := rfl
@[simp] theorem beginOperation_pinCur (ph : Phase) : (beginOperation ph s).pinCur = s.pinCur := rfl
@[simp] theorem beginOperation_tcnt (ph : Phase) : (beginOperation ph s).tcnt = s.tcnt := rfl
@[simp] theorem beginOperation_waitLvl (ph : Phase) : (beginOperation ph s).waitLvl = s.waitLvl := rfl
@[simp] theorem beginOperation_t0 (ph : Phase) : (beginOperation ph s).t0 = s.t0 := rfl
@[simp] theorem beginOperation_dlyM (ph : Phase) : (beginOperation ph s).dlyM = s.dlyM := rfl
@[simp] theorem beginOperation_dlyE (ph : Phase) : (beginOperation ph s).dlyE = s.dlyE := rfl
@[simp] theorem beginOperation_dlyWrap (ph : Phase) : (beginOperation ph s).dlyWrap = s.dlyWrap := rfl
@[simp] theorem beginOperation_kWake (ph : Phase) : (beginOperation ph s).kWake = s.kWake := rfl
@[simp] theorem beginOperation_kSettle (ph : Phase) : (beginOperation ph s).kSettle = s.kSettle := rfl
@[simp] theorem beginOperation_kThresh (ph : Phase) : (beginOperation ph s).kThresh = s.kThresh := rfl
@[simp] theorem beginOperation_kTimeout (ph : Phase) : (beginOperation ph s).kTimeout = s.kTimeout := rfl
@[simp] theorem beginOperation_kCrit (ph : Phase) : (beginOperation ph s).kCrit = s.kCrit := rfl
@[simp] theorem beginOperation_defaults (ph : Phase) : (beginOperation ph s).defaults = s.defaults := rfl
@[simp] theorem beginOperation_faults (ph : Phase) : (beginOperation ph s).faults = s.faults := rfl
@[simp] theorem beginOperation_inReset (ph : Phase) : (beginOperation ph s).inReset = s.inReset := rfl
@[simp] theorem beginOperation_inputs (ph : Phase) : (beginOperation ph s).inputs = s.inputs := rfl
@[simp] theorem beginOperation_lineIn (ph : Phase) : (beginOperation ph s).lineIn = s.lineIn := rfl
@[simp] theorem beginOperation_draws (ph : Phase) : (beginOperation ph s).draws = s.draws := rfl
@[simp] theorem beginOperation_response (ph : Phase) : (beginOperation ph s).response = s.response := rfl
@[simp] theorem beginOperation_numPins (ph : Phase) : (beginOperation ph s).numPins = s.numPins := rfl
@[simp] theorem beginOperation_pin (ph : Phase) (q : BitVec 8) : (beginOperation ph s).pin q = s.pin q := rfl
@[simp] theorem beginOperation_cnt (ph : Phase) : (beginOperation ph s).cnt = s.cnt := rfl

/-! ### complete -/

@[simp] theorem complete_T : (complete s).T = s.T := rfl
@[simp] theorem complete_cntInit : (complete s).cntInit = s.cntInit := rfl
@[simp] theorem complete_arg : (complete s).arg = s.arg := rfl
@[simp] theorem complete_busy : (complete s).busy = false := rfl
@[simp] theorem complete_done : (complete s).done = true := rfl
@[simp] theorem complete_result : (complete s).result = s.result := rfl
@[simp] theorem complete_cause : (complete s).cause = s.cause := rfl
@[simp] theorem complete_crit : (complete s).crit = s.crit := rfl
@[simp] theorem complete_level : (complete s).level = s.level := rfl
@[simp] theorem complete_ovr : (complete s).ovr = s.ovr := rfl
@[simp] theorem complete_ill : (complete s).ill = s.ill := rfl
@[simp] theorem complete_bitidx : (complete s).bitidx = s.bitidx := rfl
@[simp] theorem complete_phase : (complete s).phase = .idle := rfl
@[simp] theorem complete_frame : (complete s).frame = s.frame := rfl
@[simp] theorem complete_csumCalc : (complete s).csumCalc = s.csumCalc := rfl
@[simp] theorem complete_time : (complete s).time = s.time := rfl
@[simp] theorem complete_last : (complete s).last = s.last := rfl
@[simp] theorem complete_cfgWakeMs : (complete s).cfgWakeMs = s.cfgWakeMs := rfl
@[simp] theorem complete_cfgSettleUs : (complete s).cfgSettleUs = s.cfgSettleUs := rfl
@[simp] theorem complete_cfgThreshUs : (complete s).cfgThreshUs = s.cfgThreshUs := rfl
@[simp] theorem complete_cfgTimeout : (complete s).cfgTimeout = s.cfgTimeout := rfl
@[simp] theorem complete_critEn : (complete s).critEn = s.critEn := rfl
@[simp] theorem complete_pins : (complete s).pins = s.pins := rfl
@[simp] theorem complete_pinCur : (complete s).pinCur = s.pinCur := rfl
@[simp] theorem complete_tcnt : (complete s).tcnt = s.tcnt := rfl
@[simp] theorem complete_waitLvl : (complete s).waitLvl = s.waitLvl := rfl
@[simp] theorem complete_t0 : (complete s).t0 = s.t0 := rfl
@[simp] theorem complete_dlyM : (complete s).dlyM = s.dlyM := rfl
@[simp] theorem complete_dlyE : (complete s).dlyE = s.dlyE := rfl
@[simp] theorem complete_dlyWrap : (complete s).dlyWrap = s.dlyWrap := rfl
@[simp] theorem complete_kWake : (complete s).kWake = s.kWake := rfl
@[simp] theorem complete_kSettle : (complete s).kSettle = s.kSettle := rfl
@[simp] theorem complete_kThresh : (complete s).kThresh = s.kThresh := rfl
@[simp] theorem complete_kTimeout : (complete s).kTimeout = s.kTimeout := rfl
@[simp] theorem complete_kCrit : (complete s).kCrit = s.kCrit := rfl
@[simp] theorem complete_defaults : (complete s).defaults = s.defaults := rfl
@[simp] theorem complete_faults : (complete s).faults = s.faults := rfl
@[simp] theorem complete_inReset : (complete s).inReset = s.inReset := rfl
@[simp] theorem complete_inputs : (complete s).inputs = s.inputs := rfl
@[simp] theorem complete_lineIn : (complete s).lineIn = s.lineIn := rfl
@[simp] theorem complete_draws : (complete s).draws = s.draws := rfl
@[simp] theorem complete_response : (complete s).response = s.response := rfl
@[simp] theorem complete_numPins : (complete s).numPins = s.numPins := rfl
@[simp] theorem complete_pin (q : BitVec 8) : (complete s).pin q = s.pin q := rfl
@[simp] theorem complete_cnt : (complete s).cnt = s.cnt := rfl

/-! ### raiseFault -/

@[simp] theorem raiseFault_T (f : Fault) : (raiseFault f s).T = s.T := rfl
@[simp] theorem raiseFault_cntInit (f : Fault) : (raiseFault f s).cntInit = s.cntInit := rfl
@[simp] theorem raiseFault_arg (f : Fault) : (raiseFault f s).arg = s.arg := rfl
@[simp] theorem raiseFault_busy (f : Fault) : (raiseFault f s).busy = s.busy := rfl
@[simp] theorem raiseFault_done (f : Fault) : (raiseFault f s).done = s.done := rfl
@[simp] theorem raiseFault_result (f : Fault) : (raiseFault f s).result = s.result := rfl
@[simp] theorem raiseFault_cause (f : Fault) : (raiseFault f s).cause = s.cause := rfl
@[simp] theorem raiseFault_crit (f : Fault) : (raiseFault f s).crit = s.crit := rfl
@[simp] theorem raiseFault_level (f : Fault) : (raiseFault f s).level = s.level := rfl
@[simp] theorem raiseFault_ovr (f : Fault) : (raiseFault f s).ovr = s.ovr := rfl
@[simp] theorem raiseFault_ill (f : Fault) : (raiseFault f s).ill = s.ill := rfl
@[simp] theorem raiseFault_bitidx (f : Fault) : (raiseFault f s).bitidx = s.bitidx := rfl
@[simp] theorem raiseFault_phase (f : Fault) : (raiseFault f s).phase = s.phase := rfl
@[simp] theorem raiseFault_frame (f : Fault) : (raiseFault f s).frame = s.frame := rfl
@[simp] theorem raiseFault_csumCalc (f : Fault) : (raiseFault f s).csumCalc = s.csumCalc := rfl
@[simp] theorem raiseFault_time (f : Fault) : (raiseFault f s).time = s.time := rfl
@[simp] theorem raiseFault_last (f : Fault) : (raiseFault f s).last = s.last := rfl
@[simp] theorem raiseFault_cfgWakeMs (f : Fault) : (raiseFault f s).cfgWakeMs = s.cfgWakeMs := rfl
@[simp] theorem raiseFault_cfgSettleUs (f : Fault) : (raiseFault f s).cfgSettleUs = s.cfgSettleUs := rfl
@[simp] theorem raiseFault_cfgThreshUs (f : Fault) : (raiseFault f s).cfgThreshUs = s.cfgThreshUs := rfl
@[simp] theorem raiseFault_cfgTimeout (f : Fault) : (raiseFault f s).cfgTimeout = s.cfgTimeout := rfl
@[simp] theorem raiseFault_critEn (f : Fault) : (raiseFault f s).critEn = s.critEn := rfl
@[simp] theorem raiseFault_pins (f : Fault) : (raiseFault f s).pins = s.pins := rfl
@[simp] theorem raiseFault_pinCur (f : Fault) : (raiseFault f s).pinCur = s.pinCur := rfl
@[simp] theorem raiseFault_tcnt (f : Fault) : (raiseFault f s).tcnt = s.tcnt := rfl
@[simp] theorem raiseFault_waitLvl (f : Fault) : (raiseFault f s).waitLvl = s.waitLvl := rfl
@[simp] theorem raiseFault_t0 (f : Fault) : (raiseFault f s).t0 = s.t0 := rfl
@[simp] theorem raiseFault_dlyM (f : Fault) : (raiseFault f s).dlyM = s.dlyM := rfl
@[simp] theorem raiseFault_dlyE (f : Fault) : (raiseFault f s).dlyE = s.dlyE := rfl
@[simp] theorem raiseFault_dlyWrap (f : Fault) : (raiseFault f s).dlyWrap = s.dlyWrap := rfl
@[simp] theorem raiseFault_kWake (f : Fault) : (raiseFault f s).kWake = s.kWake := rfl
@[simp] theorem raiseFault_kSettle (f : Fault) : (raiseFault f s).kSettle = s.kSettle := rfl
@[simp] theorem raiseFault_kThresh (f : Fault) : (raiseFault f s).kThresh = s.kThresh := rfl
@[simp] theorem raiseFault_kTimeout (f : Fault) : (raiseFault f s).kTimeout = s.kTimeout := rfl
@[simp] theorem raiseFault_kCrit (f : Fault) : (raiseFault f s).kCrit = s.kCrit := rfl
@[simp] theorem raiseFault_faults (f : Fault) : (raiseFault f s).faults = if f ∈ s.faults then s.faults else s.faults ++ [f] := rfl
@[simp] theorem raiseFault_defaults (f : Fault) : (raiseFault f s).defaults = s.defaults := rfl
@[simp] theorem raiseFault_inReset (f : Fault) : (raiseFault f s).inReset = s.inReset := rfl
@[simp] theorem raiseFault_inputs (f : Fault) : (raiseFault f s).inputs = s.inputs := rfl
@[simp] theorem raiseFault_lineIn (f : Fault) : (raiseFault f s).lineIn = s.lineIn := rfl
@[simp] theorem raiseFault_draws (f : Fault) : (raiseFault f s).draws = s.draws := rfl
@[simp] theorem raiseFault_response (f : Fault) : (raiseFault f s).response = s.response := rfl
@[simp] theorem raiseFault_numPins (f : Fault) : (raiseFault f s).numPins = s.numPins := rfl
@[simp] theorem raiseFault_pin (f : Fault) (q : BitVec 8) : (raiseFault f s).pin q = s.pin q := rfl
@[simp] theorem raiseFault_cnt (f : Fault) : (raiseFault f s).cnt = s.cnt := rfl

/-! ### delayStart -/

@[simp] theorem delayStart_T (d : DWord) : (delayStart d s).T = s.T := rfl
@[simp] theorem delayStart_cntInit (d : DWord) : (delayStart d s).cntInit = s.cntInit := rfl
@[simp] theorem delayStart_arg (d : DWord) : (delayStart d s).arg = s.arg := rfl
@[simp] theorem delayStart_busy (d : DWord) : (delayStart d s).busy = s.busy := rfl
@[simp] theorem delayStart_done (d : DWord) : (delayStart d s).done = s.done := rfl
@[simp] theorem delayStart_result (d : DWord) : (delayStart d s).result = s.result := rfl
@[simp] theorem delayStart_cause (d : DWord) : (delayStart d s).cause = s.cause := rfl
@[simp] theorem delayStart_crit (d : DWord) : (delayStart d s).crit = s.crit := rfl
@[simp] theorem delayStart_level (d : DWord) : (delayStart d s).level = s.level := rfl
@[simp] theorem delayStart_ovr (d : DWord) : (delayStart d s).ovr = s.ovr := rfl
@[simp] theorem delayStart_ill (d : DWord) : (delayStart d s).ill = s.ill := rfl
@[simp] theorem delayStart_bitidx (d : DWord) : (delayStart d s).bitidx = s.bitidx := rfl
@[simp] theorem delayStart_phase (d : DWord) : (delayStart d s).phase = s.phase := rfl
@[simp] theorem delayStart_frame (d : DWord) : (delayStart d s).frame = s.frame := rfl
@[simp] theorem delayStart_csumCalc (d : DWord) : (delayStart d s).csumCalc = s.csumCalc := rfl
@[simp] theorem delayStart_time (d : DWord) : (delayStart d s).time = s.time := rfl
@[simp] theorem delayStart_last (d : DWord) : (delayStart d s).last = s.last := rfl
@[simp] theorem delayStart_cfgWakeMs (d : DWord) : (delayStart d s).cfgWakeMs = s.cfgWakeMs := rfl
@[simp] theorem delayStart_cfgSettleUs (d : DWord) : (delayStart d s).cfgSettleUs = s.cfgSettleUs := rfl
@[simp] theorem delayStart_cfgThreshUs (d : DWord) : (delayStart d s).cfgThreshUs = s.cfgThreshUs := rfl
@[simp] theorem delayStart_cfgTimeout (d : DWord) : (delayStart d s).cfgTimeout = s.cfgTimeout := rfl
@[simp] theorem delayStart_critEn (d : DWord) : (delayStart d s).critEn = s.critEn := rfl
@[simp] theorem delayStart_pins (d : DWord) : (delayStart d s).pins = s.pins := rfl
@[simp] theorem delayStart_pinCur (d : DWord) : (delayStart d s).pinCur = s.pinCur := rfl
@[simp] theorem delayStart_tcnt (d : DWord) : (delayStart d s).tcnt = s.tcnt := rfl
@[simp] theorem delayStart_waitLvl (d : DWord) : (delayStart d s).waitLvl = s.waitLvl := rfl
@[simp] theorem delayStart_t0 (d : DWord) : (delayStart d s).t0 = s.t0 := rfl
@[simp] theorem delayStart_dlyM (d : DWord) : (delayStart d s).dlyM = s.cnt := rfl
@[simp] theorem delayStart_dlyE (d : DWord) : (delayStart d s).dlyE = s.cnt + d := rfl
@[simp] theorem delayStart_dlyWrap (d : DWord) : (delayStart d s).dlyWrap = (s.cnt + d).ult s.cnt := rfl
@[simp] theorem delayStart_kWake (d : DWord) : (delayStart d s).kWake = s.kWake := rfl
@[simp] theorem delayStart_kSettle (d : DWord) : (delayStart d s).kSettle = s.kSettle := rfl
@[simp] theorem delayStart_kThresh (d : DWord) : (delayStart d s).kThresh = s.kThresh := rfl
@[simp] theorem delayStart_kTimeout (d : DWord) : (delayStart d s).kTimeout = s.kTimeout := rfl
@[simp] theorem delayStart_kCrit (d : DWord) : (delayStart d s).kCrit = s.kCrit := rfl
@[simp] theorem delayStart_defaults (d : DWord) : (delayStart d s).defaults = s.defaults := rfl
@[simp] theorem delayStart_faults (d : DWord) : (delayStart d s).faults = s.faults := rfl
@[simp] theorem delayStart_inReset (d : DWord) : (delayStart d s).inReset = s.inReset := rfl
@[simp] theorem delayStart_inputs (d : DWord) : (delayStart d s).inputs = s.inputs := rfl
@[simp] theorem delayStart_lineIn (d : DWord) : (delayStart d s).lineIn = s.lineIn := rfl
@[simp] theorem delayStart_draws (d : DWord) : (delayStart d s).draws = s.draws := rfl
@[simp] theorem delayStart_response (d : DWord) : (delayStart d s).response = s.response := rfl
@[simp] theorem delayStart_numPins (d : DWord) : (delayStart d s).numPins = s.numPins := rfl
@[simp] theorem delayStart_pin (d : DWord) (q : BitVec 8) : (delayStart d s).pin q = s.pin q := rfl
@[simp] theorem delayStart_cnt (d : DWord) : (delayStart d s).cnt = s.cnt := rfl

/-! ### clearFrame -/

@[simp] theorem clearFrame_T : (clearFrame s).T = s.T := rfl
@[simp] theorem clearFrame_cntInit : (clearFrame s).cntInit = s.cntInit := rfl
@[simp] theorem clearFrame_arg : (clearFrame s).arg = s.arg := rfl
@[simp] theorem clearFrame_busy : (clearFrame s).busy = s.busy := rfl
@[simp] theorem clearFrame_done : (clearFrame s).done = s.done := rfl
@[simp] theorem clearFrame_result : (clearFrame s).result = s.result := rfl
@[simp] theorem clearFrame_cause : (clearFrame s).cause = s.cause := rfl
@[simp] theorem clearFrame_crit : (clearFrame s).crit = s.crit := rfl
@[simp] theorem clearFrame_level : (clearFrame s).level = s.level := rfl
@[simp] theorem clearFrame_ovr : (clearFrame s).ovr = s.ovr := rfl
@[simp] theorem clearFrame_ill : (clearFrame s).ill = s.ill := rfl
@[simp] theorem clearFrame_bitidx : (clearFrame s).bitidx = s.bitidx := rfl
@[simp] theorem clearFrame_phase : (clearFrame s).phase = s.phase := rfl
@[simp] theorem clearFrame_frame : (clearFrame s).frame = Frame.zero := rfl
@[simp] theorem clearFrame_csumCalc : (clearFrame s).csumCalc = 0 := rfl
@[simp] theorem clearFrame_time : (clearFrame s).time = s.time := rfl
@[simp] theorem clearFrame_last : (clearFrame s).last = s.last := rfl
@[simp] theorem clearFrame_cfgWakeMs : (clearFrame s).cfgWakeMs = s.cfgWakeMs := rfl
@[simp] theorem clearFrame_cfgSettleUs : (clearFrame s).cfgSettleUs = s.cfgSettleUs := rfl
@[simp] theorem clearFrame_cfgThreshUs : (clearFrame s).cfgThreshUs = s.cfgThreshUs := rfl
@[simp] theorem clearFrame_cfgTimeout : (clearFrame s).cfgTimeout = s.cfgTimeout := rfl
@[simp] theorem clearFrame_critEn : (clearFrame s).critEn = s.critEn := rfl
@[simp] theorem clearFrame_pins : (clearFrame s).pins = s.pins := rfl
@[simp] theorem clearFrame_pinCur : (clearFrame s).pinCur = s.pinCur := rfl
@[simp] theorem clearFrame_tcnt : (clearFrame s).tcnt = s.tcnt := rfl
@[simp] theorem clearFrame_waitLvl : (clearFrame s).waitLvl = s.waitLvl := rfl
@[simp] theorem clearFrame_t0 : (clearFrame s).t0 = s.t0 := rfl
@[simp] theorem clearFrame_dlyM : (clearFrame s).dlyM = s.dlyM := rfl
@[simp] theorem clearFrame_dlyE : (clearFrame s).dlyE = s.dlyE := rfl
@[simp] theorem clearFrame_dlyWrap : (clearFrame s).dlyWrap = s.dlyWrap := rfl
@[simp] theorem clearFrame_kWake : (clearFrame s).kWake = s.kWake := rfl
@[simp] theorem clearFrame_kSettle : (clearFrame s).kSettle = s.kSettle := rfl
@[simp] theorem clearFrame_kThresh : (clearFrame s).kThresh = s.kThresh := rfl
@[simp] theorem clearFrame_kTimeout : (clearFrame s).kTimeout = s.kTimeout := rfl
@[simp] theorem clearFrame_kCrit : (clearFrame s).kCrit = s.kCrit := rfl
@[simp] theorem clearFrame_defaults : (clearFrame s).defaults = s.defaults := rfl
@[simp] theorem clearFrame_faults : (clearFrame s).faults = s.faults := rfl
@[simp] theorem clearFrame_inReset : (clearFrame s).inReset = s.inReset := rfl
@[simp] theorem clearFrame_inputs : (clearFrame s).inputs = s.inputs := rfl
@[simp] theorem clearFrame_lineIn : (clearFrame s).lineIn = s.lineIn := rfl
@[simp] theorem clearFrame_draws : (clearFrame s).draws = s.draws := rfl
@[simp] theorem clearFrame_response : (clearFrame s).response = s.response := rfl
@[simp] theorem clearFrame_numPins : (clearFrame s).numPins = s.numPins := rfl
@[simp] theorem clearFrame_pin (q : BitVec 8) : (clearFrame s).pin q = s.pin q := rfl
@[simp] theorem clearFrame_cnt : (clearFrame s).cnt = s.cnt := rfl

/-! ### copyConfig -/

@[simp] theorem copyConfig_T (p : BitVec 8) : (copyConfig p s).T = s.T := rfl
@[simp] theorem copyConfig_cntInit (p : BitVec 8) : (copyConfig p s).cntInit = s.cntInit := rfl
@[simp] theorem copyConfig_arg (p : BitVec 8) : (copyConfig p s).arg = s.arg := rfl
@[simp] theorem copyConfig_busy (p : BitVec 8) : (copyConfig p s).busy = s.busy := rfl
@[simp] theorem copyConfig_done (p : BitVec 8) : (copyConfig p s).done = s.done := rfl
@[simp] theorem copyConfig_result (p : BitVec 8) : (copyConfig p s).result = s.result := rfl
@[simp] theorem copyConfig_cause (p : BitVec 8) : (copyConfig p s).cause = s.cause := rfl
@[simp] theorem copyConfig_crit (p : BitVec 8) : (copyConfig p s).crit = s.crit := rfl
@[simp] theorem copyConfig_level (p : BitVec 8) : (copyConfig p s).level = s.level := rfl
@[simp] theorem copyConfig_ovr (p : BitVec 8) : (copyConfig p s).ovr = s.ovr := rfl
@[simp] theorem copyConfig_ill (p : BitVec 8) : (copyConfig p s).ill = s.ill := rfl
@[simp] theorem copyConfig_bitidx (p : BitVec 8) : (copyConfig p s).bitidx = s.bitidx := rfl
@[simp] theorem copyConfig_phase (p : BitVec 8) : (copyConfig p s).phase = s.phase := rfl
@[simp] theorem copyConfig_frame (p : BitVec 8) : (copyConfig p s).frame = s.frame := rfl
@[simp] theorem copyConfig_csumCalc (p : BitVec 8) : (copyConfig p s).csumCalc = s.csumCalc := rfl
@[simp] theorem copyConfig_time (p : BitVec 8) : (copyConfig p s).time = s.time := rfl
@[simp] theorem copyConfig_last (p : BitVec 8) : (copyConfig p s).last = s.last := rfl
@[simp] theorem copyConfig_cfgWakeMs (p : BitVec 8) : (copyConfig p s).cfgWakeMs = s.cfgWakeMs := rfl
@[simp] theorem copyConfig_cfgSettleUs (p : BitVec 8) : (copyConfig p s).cfgSettleUs = s.cfgSettleUs := rfl
@[simp] theorem copyConfig_cfgThreshUs (p : BitVec 8) : (copyConfig p s).cfgThreshUs = s.cfgThreshUs := rfl
@[simp] theorem copyConfig_cfgTimeout (p : BitVec 8) : (copyConfig p s).cfgTimeout = s.cfgTimeout := rfl
@[simp] theorem copyConfig_critEn (p : BitVec 8) : (copyConfig p s).critEn = s.critEn := rfl
@[simp] theorem copyConfig_pins (p : BitVec 8) : (copyConfig p s).pins = s.pins := rfl
@[simp] theorem copyConfig_pinCur (p : BitVec 8) : (copyConfig p s).pinCur = p := rfl
@[simp] theorem copyConfig_tcnt (p : BitVec 8) : (copyConfig p s).tcnt = s.tcnt := rfl
@[simp] theorem copyConfig_waitLvl (p : BitVec 8) : (copyConfig p s).waitLvl = s.waitLvl := rfl
@[simp] theorem copyConfig_t0 (p : BitVec 8) : (copyConfig p s).t0 = s.t0 := rfl
@[simp] theorem copyConfig_dlyM (p : BitVec 8) : (copyConfig p s).dlyM = s.dlyM := rfl
@[simp] theorem copyConfig_dlyE (p : BitVec 8) : (copyConfig p s).dlyE = s.dlyE := rfl
@[simp] theorem copyConfig_dlyWrap (p : BitVec 8) : (copyConfig p s).dlyWrap = s.dlyWrap := rfl
@[simp] theorem copyConfig_kWake (p : BitVec 8) : (copyConfig p s).kWake = s.cfgWakeMs := rfl
@[simp] theorem copyConfig_kSettle (p : BitVec 8) : (copyConfig p s).kSettle = s.cfgSettleUs := rfl
@[simp] theorem copyConfig_kThresh (p : BitVec 8) : (copyConfig p s).kThresh = s.cfgThreshUs := rfl
@[simp] theorem copyConfig_kTimeout (p : BitVec 8) : (copyConfig p s).kTimeout = s.cfgTimeout := rfl
@[simp] theorem copyConfig_kCrit (p : BitVec 8) : (copyConfig p s).kCrit = s.critEn := rfl
@[simp] theorem copyConfig_defaults (p : BitVec 8) : (copyConfig p s).defaults = s.defaults := rfl
@[simp] theorem copyConfig_faults (p : BitVec 8) : (copyConfig p s).faults = s.faults := rfl
@[simp] theorem copyConfig_inReset (p : BitVec 8) : (copyConfig p s).inReset = s.inReset := rfl
@[simp] theorem copyConfig_inputs (p : BitVec 8) : (copyConfig p s).inputs = s.inputs := rfl
@[simp] theorem copyConfig_lineIn (p : BitVec 8) : (copyConfig p s).lineIn = s.lineIn := rfl
@[simp] theorem copyConfig_draws (p : BitVec 8) : (copyConfig p s).draws = s.draws := rfl
@[simp] theorem copyConfig_response (p : BitVec 8) : (copyConfig p s).response = s.response := rfl
@[simp] theorem copyConfig_numPins (p : BitVec 8) : (copyConfig p s).numPins = s.numPins := rfl
@[simp] theorem copyConfig_pin (p : BitVec 8) (q : BitVec 8) : (copyConfig p s).pin q = s.pin q := rfl
@[simp] theorem copyConfig_cnt (p : BitVec 8) : (copyConfig p s).cnt = s.cnt := rfl

/-! ### startWait -/

@[simp] theorem startWait_T (ph : Phase) (l : Level) : (startWait ph l s).T = s.T := rfl
@[simp] theorem startWait_cntInit (ph : Phase) (l : Level) : (startWait ph l s).cntInit = s.cntInit := rfl
@[simp] theorem startWait_arg (ph : Phase) (l : Level) : (startWait ph l s).arg = s.arg := rfl
@[simp] theorem startWait_busy (ph : Phase) (l : Level) : (startWait ph l s).busy = s.busy := rfl
@[simp] theorem startWait_done (ph : Phase) (l : Level) : (startWait ph l s).done = s.done := rfl
@[simp] theorem startWait_result (ph : Phase) (l : Level) : (startWait ph l s).result = s.result := rfl
@[simp] theorem startWait_cause (ph : Phase) (l : Level) : (startWait ph l s).cause = s.cause := rfl
@[simp] theorem startWait_crit (ph : Phase) (l : Level) : (startWait ph l s).crit = s.crit := rfl
@[simp] theorem startWait_level (ph : Phase) (l : Level) : (startWait ph l s).level = s.level := rfl
@[simp] theorem startWait_ovr (ph : Phase) (l : Level) : (startWait ph l s).ovr = s.ovr := rfl
@[simp] theorem startWait_ill (ph : Phase) (l : Level) : (startWait ph l s).ill = s.ill := rfl
@[simp] theorem startWait_bitidx (ph : Phase) (l : Level) : (startWait ph l s).bitidx = s.bitidx := rfl
@[simp] theorem startWait_phase (ph : Phase) (l : Level) : (startWait ph l s).phase = ph := rfl
@[simp] theorem startWait_frame (ph : Phase) (l : Level) : (startWait ph l s).frame = s.frame := rfl
@[simp] theorem startWait_csumCalc (ph : Phase) (l : Level) : (startWait ph l s).csumCalc = s.csumCalc := rfl
@[simp] theorem startWait_time (ph : Phase) (l : Level) : (startWait ph l s).time = s.time := rfl
@[simp] theorem startWait_last (ph : Phase) (l : Level) : (startWait ph l s).last = s.last := rfl
@[simp] theorem startWait_cfgWakeMs (ph : Phase) (l : Level) : (startWait ph l s).cfgWakeMs = s.cfgWakeMs := rfl
@[simp] theorem startWait_cfgSettleUs (ph : Phase) (l : Level) : (startWait ph l s).cfgSettleUs = s.cfgSettleUs := rfl
@[simp] theorem startWait_cfgThreshUs (ph : Phase) (l : Level) : (startWait ph l s).cfgThreshUs = s.cfgThreshUs := rfl
@[simp] theorem startWait_cfgTimeout (ph : Phase) (l : Level) : (startWait ph l s).cfgTimeout = s.cfgTimeout := rfl
@[simp] theorem startWait_critEn (ph : Phase) (l : Level) : (startWait ph l s).critEn = s.critEn := rfl
@[simp] theorem startWait_pins (ph : Phase) (l : Level) : (startWait ph l s).pins = s.pins := rfl
@[simp] theorem startWait_pinCur (ph : Phase) (l : Level) : (startWait ph l s).pinCur = s.pinCur := rfl
@[simp] theorem startWait_tcnt (ph : Phase) (l : Level) : (startWait ph l s).tcnt = s.kTimeout := rfl
@[simp] theorem startWait_waitLvl (ph : Phase) (l : Level) : (startWait ph l s).waitLvl = l := rfl
@[simp] theorem startWait_t0 (ph : Phase) (l : Level) : (startWait ph l s).t0 = s.t0 := rfl
@[simp] theorem startWait_dlyM (ph : Phase) (l : Level) : (startWait ph l s).dlyM = s.dlyM := rfl
@[simp] theorem startWait_dlyE (ph : Phase) (l : Level) : (startWait ph l s).dlyE = s.dlyE := rfl
@[simp] theorem startWait_dlyWrap (ph : Phase) (l : Level) : (startWait ph l s).dlyWrap = s.dlyWrap := rfl
@[simp] theorem startWait_kWake (ph : Phase) (l : Level) : (startWait ph l s).kWake = s.kWake := rfl
@[simp] theorem startWait_kSettle (ph : Phase) (l : Level) : (startWait ph l s).kSettle = s.kSettle := rfl
@[simp] theorem startWait_kThresh (ph : Phase) (l : Level) : (startWait ph l s).kThresh = s.kThresh := rfl
@[simp] theorem startWait_kTimeout (ph : Phase) (l : Level) : (startWait ph l s).kTimeout = s.kTimeout := rfl
@[simp] theorem startWait_kCrit (ph : Phase) (l : Level) : (startWait ph l s).kCrit = s.kCrit := rfl
@[simp] theorem startWait_defaults (ph : Phase) (l : Level) : (startWait ph l s).defaults = s.defaults := rfl
@[simp] theorem startWait_faults (ph : Phase) (l : Level) : (startWait ph l s).faults = s.faults := rfl
@[simp] theorem startWait_inReset (ph : Phase) (l : Level) : (startWait ph l s).inReset = s.inReset := rfl
@[simp] theorem startWait_inputs (ph : Phase) (l : Level) : (startWait ph l s).inputs = s.inputs := rfl
@[simp] theorem startWait_lineIn (ph : Phase) (l : Level) : (startWait ph l s).lineIn = s.lineIn := rfl
@[simp] theorem startWait_draws (ph : Phase) (l : Level) : (startWait ph l s).draws = s.draws := rfl
@[simp] theorem startWait_response (ph : Phase) (l : Level) : (startWait ph l s).response = s.response := rfl
@[simp] theorem startWait_numPins (ph : Phase) (l : Level) : (startWait ph l s).numPins = s.numPins := rfl
@[simp] theorem startWait_pin (ph : Phase) (l : Level) (q : BitVec 8) : (startWait ph l s).pin q = s.pin q := rfl
@[simp] theorem startWait_cnt (ph : Phase) (l : Level) : (startWait ph l s).cnt = s.cnt := rfl

end Sys2Proof.Machine
end

