-- ==== Sys2Proof/Laws/Ops.lean ====
section
/-! SUPPORT. One lemma per shared operation that says everything it can do: the draws and the next input, the pins,
raising a fault, the delay engine, the admission of an access; and the inversion lemmas of a step. -/

namespace Sys2Proof.Machine

/-! ### Draws and inputs -/

theorem nextInput_cons {s : State} {i : Input} {rest : List Input} (h : s.inputs = i :: rest) :
    nextInput s = (i, { s with inputs := rest }) := by simp [nextInput, h]

/-- All that taking the next input changes. -/
theorem nextInput_snd (s : State) : (nextInput s).2 =
    { s with inputs := s.inputs.tail, draws := if s.inputs = [] then s.draws + 1 else s.draws } := by
  cases s with | _ => rename_i inputs _ _ _; cases inputs <;> simp [nextInput]

theorem readLine_cons {s : State} {l : Level} {ls : List Level} (p : BitVec 8) (h : s.lineIn = l :: ls) :
    readLine p s = (l, { s with lineIn := ls }) := by simp [readLine, h]

theorem readLine_nil {s : State} (p : BitVec 8) (h : s.lineIn = []) :
    readLine p s = (Config.freeLevel s.draws p s.T, { s with draws := s.draws + 1 }) := by simp [readLine, h]

/-- All that a sample of the line changes. -/
theorem readLine_snd (p : BitVec 8) (s : State) : (readLine p s).2 =
    { s with lineIn := s.lineIn.tail, draws := if s.lineIn = [] then s.draws + 1 else s.draws } := by
  cases s with | _ => rename_i lineIn _ _; cases lineIn <;> simp [readLine]

/-- All that READ_LEVEL's sample changes. -/
theorem senseLevel_snd (p : BitVec 8) (s : State) : ∃ ls d, (senseLevel p s).2 = { s with lineIn := ls, draws := d } := by
  unfold senseLevel
  split
  · exact ⟨_, _, readLine_snd p s⟩
  · exact ⟨s.lineIn, _, rfl⟩

/-! ### Pins -/

@[simp] theorem modifyPin_numPins (p : BitVec 8) (f : Pin → Pin) (s : State) :
    (modifyPin p f s).numPins = s.numPins := by simp [State.numPins]

theorem modifyPin_pin_same {p : BitVec 8} {s : State} (f : Pin → Pin) (h : p.toNat < s.numPins) :
    (modifyPin p f s).pin p = f (s.pin p) := by
  simp only [State.numPins] at h
  simp [State.pin, List.getD, List.getElem?_eq_getElem h]

theorem modifyPin_pin_other {p q : BitVec 8} (s : State) (f : Pin → Pin) (h : q ≠ p) :
    (modifyPin p f s).pin q = s.pin q := by
  have : p.toNat ≠ q.toNat := fun e => h (BitVec.eq_of_toNat_eq e.symm)
  simp [State.pin, List.getD, this]

/-! ### Faults -/

theorem mem_raiseFault (f g : Fault) (s : State) : g ∈ (raiseFault f s).faults ↔ g = f ∨ g ∈ s.faults := by
  by_cases h : f ∈ s.faults
  · simp only [raiseFault_faults, if_pos h]
    exact ⟨.inr, by rintro (rfl | h') <;> assumption⟩
  · simp only [raiseFault_faults, if_neg h, List.mem_append, List.mem_singleton]
    exact or_comm

theorem raiseFault_nodup (f : Fault) {s : State} (h : s.faults.Nodup) : (raiseFault f s).faults.Nodup := by
  by_cases hf : f ∈ s.faults
  · simpa only [raiseFault_faults, if_pos hf] using h
  · simp only [raiseFault_faults, if_neg hf, List.nodup_append]
    refine ⟨h, by simp, ?_⟩
    rintro a ha b hb rfl
    exact hf (by simp at hb; exact hb ▸ ha)

/-! ### The delay engine -/

/-- All that a poll of the counter changes. -/
theorem delayStep_snd (s : State) :
    (delayStep s).2 = { s with dlyWrap := s.dlyWrap && decide (s.dlyM.toNat ≤ s.cnt.toNat) } := by
  cases hw : s.dlyWrap <;> by_cases hc : s.dlyM.toNat ≤ s.cnt.toNat <;>
    simp_all [delayStep, BitVec.ult]
  cases s; simp_all

/-- When a poll of the counter ends the delay. -/
theorem delayStep_fst (s : State) : (delayStep s).1 = true ↔ DelayOver s := by
  cases hw : s.dlyWrap <;> by_cases hc : s.dlyM.toNat ≤ s.cnt.toNat <;>
    simp_all [delayStep, BitVec.ult, DelayOver]

/-! ### The validator and the bit decision -/

theorem checksum8_toNat (b0 b1 b2 b3 : Byte) :
    (checksum8 b0 b1 b2 b3).toNat = (b0.toNat + b1.toNat + b2.toNat + b3.toNat) % 256 := by
  simp only [checksum8, BitVec.toNat_setWidth, BitVec.toNat_add]
  omega

theorem validate_eq (c b : Byte) : validate c b = if b.toNat = c.toNat then .ok else .checksumError := by
  have : c = b ↔ b.toNat = c.toNat := by rw [← BitVec.toNat_inj]; exact eq_comm
  simp only [validate, this]

theorem decideBit_eq (width : DWord) (thresh : Word) :
    decideBit width thresh = decide (thresh.toNat < width.toNat) := by
  have := thresh.isLt
  have e : (zext64 thresh).toNat = thresh.toNat := by
    rw [zext64, BitVec.toNat_setWidth]; omega
  rw [decideBit, BitVec.ult, e]

/-! ### Admission of an access -/

@[simp] theorem regAt_regOffset (r : Reg) : regAt (regOffset r) = some r := by cases r <;> rfl

/-- An admitted access goes to the register at its offset, is 32 bits wide and does not write a read-only one. -/
theorem admit_some {s : State} {a : BusAccess} {r : Reg} (h : admittedReg s a = some r) :
    s.inReset = false ∧ a.width = .word ∧ a.off = regOffset r ∧ (isWrite a.op = true → isReadOnly r = false) := by
  have offset : ∀ (o : BitVec 6) (r : Reg), regAt o = some r → o = regOffset r := by decide
  unfold admittedReg at h
  split at h
  · cases h
  · rename_i hr
    split at h
    · rename_i r' hw hr'
      split at h
      · cases h
      · rename_i hro
        cases h
        exact ⟨by simpa using hr, hw, offset _ _ hr', by simpa using hro⟩
    all_goals cases h

theorem admit_regOffset {s : State} (r : Reg) (op : BusOp) (hr : s.inReset = false)
    (hw : isWrite op = false ∨ isReadOnly r = false) : admittedReg s ⟨regOffset r, .word, op⟩ = some r := by
  rcases hw with h | h <;> simp [admittedReg, hr, h]

/-! ### What one step can do -/

/-- Everything a Host access can do. -/
theorem busAccess_cases {a : BusAccess} {s t : State} (h : busAccess a s = .next t) :
    (admittedReg s a = none ∧ t = refuseAccess a s) ∨
    ∃ r, admittedReg s a = some r ∧
      ((a.op = .read ∧ t = busRead r s) ∨
       ∃ v, a.op = .write v ∧
        ((s.busy = true ∧ isGuarded r = true ∧ t = overrun a.off v { s with response := .written }) ∨
         (r = .status ∧ t = clearSticky v { s with response := .written }) ∨
         (s.busy = false ∧ registerWrite r v { s with response := .written } = .next t ∧ isGuarded r = true))) := by
  unfold busAccess at h
  cases ha : admittedReg s a with
  | none => rw [ha] at h; cases h; exact .inl ⟨rfl, rfl⟩
  | some r =>
    refine .inr ⟨r, rfl, ?_⟩
    rw [ha] at h
    cases hop : a.op with
    | read => rw [hop] at h; cases h; exact .inl ⟨rfl, rfl⟩
    | write v =>
      refine .inr ⟨v, rfl, ?_⟩
      rw [hop] at h
      have hro := (admit_some ha).2.2.2 (by rw [hop]; rfl)
      simp only [busWrite] at h
      split at h
      · rename_i hg
        cases h
        simp only [Bool.and_eq_true] at hg
        exact .inl ⟨hg.1, hg.2, rfl⟩
      · rename_i hg
        cases r <;> simp_all [isReadOnly, isGuarded, registerWrite]

/-- Everything an admitted write to a guarded register of an idle block can do. -/
theorem registerWrite_cases {r : Reg} {v : Word} {s t : State} (h : registerWrite r v s = .next t)
    (hg : isGuarded r = true) :
    (r = .cmd ∧ ((∃ e, decode s.numPins v = .error e ∧ t = illegalCommand v s) ∨
      ∃ i, decode s.numPins v = .ok i ∧ exec i s = .next t)) ∨
    (r = .arg ∧ t = { s with arg := v }) ∨
    (r = .cfgWakeMs ∧ t = { s with cfgWakeMs := v }) ∨
    (r = .cfgSettleUs ∧ t = { s with cfgSettleUs := v }) ∨
    (r = .cfgThreshUs ∧ t = { s with cfgThreshUs := v }) ∨
    (r = .cfgTimeout ∧ t = { s with cfgTimeout := v }) ∨
    (r = .cfgCtrl ∧ t = { s with critEn := v.getLsbD 0 }) := by
  cases r
  case cmd =>
    simp only [registerWrite, commandWrite] at h
    split at h
    · rename_i e he; cases h; exact .inl ⟨rfl, .inl ⟨e, he, rfl⟩⟩
    · rename_i i hi; exact .inl ⟨rfl, .inr ⟨i, hi, h⟩⟩
  all_goals first | (simp [isGuarded] at hg; done) | (cases h; simp)

/-- Everything one input can do. -/
theorem inputStep_cases {i : Input} {s t : State} (h : inputStep i s = .next t) :
    (∃ a, i = .bus a ∧ busAccess a s = .next t) ∨
    (i = .sequencer ∧ s.inReset = false ∧ t = sequencerStep s) ∨
    (∃ k, i = .clock k ∧ s.inReset = false ∧ t = clockStep k s) ∨
    (i = .resetLine false ∧ s.inReset = true ∧ t = releaseReset s) ∨
    (i = .resetLine true ∧ t = { s with inReset := true }) ∨
    ((i = .resetLine false ∧ s.inReset = false ∨ s.inReset = true ∧ (i = .sequencer ∨ ∃ k, i = .clock k)) ∧ t = s) := by
  cases i with
  | bus a => exact .inl ⟨a, rfl, h⟩
  | sequencer => cases hr : s.inReset <;> rw [inputStep, hr] at h <;> cases h <;> simp
  | clock k => cases hr : s.inReset <;> rw [inputStep, hr] at h <;> cases h <;> simp
  | resetLine b =>
    cases b <;> cases hr : s.inReset <;> rw [inputStep, resetLineStep, hr] at h <;> cases h <;> simp

/-- What a command's accept step is, for each command. -/
theorem exec_cases {i : Instr} {s t : State} (h : exec i s = .next t) :
    (i = .now ∧ t = completeAtAccept { s with time := s.cnt }) ∨
    (i = .delayUs ∧ t = delayStart (microseconds s.arg) (beginOperation .delay s)) ∨
    (i = .delayMs ∧ t = delayStart (milliseconds s.arg) (beginOperation .delay s)) ∨
    (∃ p, i = .setOutput p ∧ t = completeAtAccept (modifyPin p makeOutput s)) ∨
    (∃ p, i = .setInput p ∧ t = completeAtAccept (modifyPin p makeInput s)) ∨
    (∃ p l, i = .writeLevel p l ∧ t = completeAtAccept (modifyPin p (setLatch l) s)) ∨
    (∃ p l ls d, i = .readLevel p ∧ t = { s with level := l, lineIn := ls, draws := d, done := true }) ∨
    (∃ p, i = .read p ∧ execRead p s = .next t) := by
  cases i with
  | readLevel p =>
    obtain ⟨ls, d, hs⟩ := senseLevel_snd p s
    refine .inr (.inr (.inr (.inr (.inr (.inr (.inl ⟨p, (senseLevel p s).1, ls, d, rfl, ?_⟩))))))
    simp only [exec, execReadLevel, hs, Host.Outcome.next.injEq] at h
    exact h.symm
  | read p => exact .inr (.inr (.inr (.inr (.inr (.inr (.inr ⟨p, rfl, h⟩))))))
  | now => cases h; simp
  | delayUs => cases h; simp
  | delayMs => cases h; simp
  | setOutput p => cases h; simp
  | setInput p => cases h; simp
  | writeLevel p l => cases h; exact .inr (.inr (.inr (.inr (.inr (.inl ⟨p, l, rfl, rfl⟩)))))

/-- Everything a wait's step can do. -/
theorem waitStep_cases (k : Cause) (exit : DWord → State → State) (s : State) :
    (s.tcnt = 0 ∧ waitStep k exit s = timeout k s) ∨
    (s.tcnt ≠ 0 ∧ (readLine s.pinCur s).1 ≠ s.waitLvl ∧
      waitStep k exit s = exit s.cnt (readLine s.pinCur s).2) ∨
    (s.tcnt ≠ 0 ∧ (readLine s.pinCur s).1 = s.waitLvl ∧
      waitStep k exit s = { (readLine s.pinCur s).2 with tcnt := s.tcnt - 1 }) := by
  have hc : (readLine s.pinCur s).2.cnt = s.cnt := by rw [readLine_snd]; rfl
  have hw : (readLine s.pinCur s).2.waitLvl = s.waitLvl := by rw [readLine_snd]
  have ht : (readLine s.pinCur s).2.tcnt = s.tcnt := by rw [readLine_snd]
  unfold waitStep
  by_cases h0 : s.tcnt = 0
  · exact .inl ⟨h0, if_pos h0⟩
  · simp only [if_neg h0, hw, hc, ht]
    by_cases hl : (readLine s.pinCur s).1 = s.waitLvl
    · exact .inr (.inr ⟨h0, hl, if_neg (not_not.mpr hl)⟩)
    · exact .inr (.inl ⟨h0, hl, if_pos hl⟩)

/-- A wait that samples a listed answer of the Line agent. -/
theorem waitStep_sample {s : State} {l : Level} {ls : List Level} (k : Cause) (exit : DWord → State → State)
    (h0 : s.tcnt ≠ 0) (hl : s.lineIn = l :: ls) : waitStep k exit s =
      if l ≠ s.waitLvl then exit s.cnt { s with lineIn := ls }
      else { s with lineIn := ls, tcnt := s.tcnt - 1 } := by
  unfold waitStep
  rw [if_neg h0, readLine_cons s.pinCur hl]
  rfl

theorem waitStep_timeout {s : State} (k : Cause) (exit : DWord → State → State) (h0 : s.tcnt = 0) :
    waitStep k exit s = timeout k s := if_pos h0

/-- The exit of a sampling phase's wait (R92–R95); no other phase has one. -/
def exitOf : Phase → DWord → State → State
  | .ackLow => fun _ => exitAckLow
  | .ackHigh => fun _ => exitAckHigh
  | .dataLow => exitDataLow
  | .dataHigh => exitDataHigh
  | .idle => fun _ => id
  | .delay => fun _ => id
  | .wake => fun _ => id
  | .settle => fun _ => id

/-- In a sampling phase the Sequencer's step is the wait's step (R91). -/
theorem sequencerStep_sampling {s : State} (h : isSampling s.phase = true) :
    sequencerStep s = waitStep (timeoutCause s.phase) (exitOf s.phase) s := by
  unfold sequencerStep
  cases hq : s.phase <;> simp [hq, isSampling] at h <;> rfl

/-! The three phases that wait for a delay, by whether it is over in this step (R76, R88, R89). -/

theorem delayStep_not_over {s : State} (h : ¬ DelayOver s) : delayStep s =
    (false, { s with dlyWrap := s.dlyWrap && decide (s.dlyM.toNat ≤ s.cnt.toNat) }) := by
  refine Prod.ext ?_ (delayStep_snd s)
  cases hx : (delayStep s).1
  · rfl
  · exact absurd ((delayStep_fst s).1 hx) h

theorem delayStep_over {s : State} (h : DelayOver s) : delayStep s = (true, { s with dlyWrap := false }) := by
  have hw : (s.dlyWrap && decide (s.dlyM.toNat ≤ s.cnt.toNat)) = false := by
    rcases h.1 with h | h <;> simp [h]
  refine Prod.ext ((delayStep_fst s).2 h) ?_
  rw [delayStep_snd, hw]

theorem delayPhaseStep_over {s : State} (h : DelayOver s) :
    delayPhaseStep s = { s with dlyWrap := false, busy := false, done := true, phase := .idle } := by
  rw [delayPhaseStep, delayStep_over h]; rfl

theorem wakeStep_over {s : State} (h : DelayOver s) : wakeStep s = { s with
    pins := (s.pins.modify s.pinCur.toNat (setLatch true)).modify s.pinCur.toNat makeInput, phase := .settle,
    dlyM := s.cnt, dlyE := s.cnt + microseconds s.kSettle,
    dlyWrap := (s.cnt + microseconds s.kSettle).ult s.cnt } := by
  rw [wakeStep, delayStep_over h]
  simp only [if_true, delayStart, modifyPin, State.cnt]

theorem settleStep_over {s : State} (h : DelayOver s) : settleStep s = { s with
    dlyWrap := false, crit := s.crit || s.kCrit, phase := .ackLow, waitLvl := true, tcnt := s.kTimeout } := by
  rw [settleStep, delayStep_over h]; rfl

theorem delayPhaseStep_not_over {s : State} (h : ¬ DelayOver s) : delayPhaseStep s =
    { s with dlyWrap := s.dlyWrap && decide (s.dlyM.toNat ≤ s.cnt.toNat) } := by
  rw [delayPhaseStep, delayStep_not_over h]; rfl

theorem wakeStep_not_over {s : State} (h : ¬ DelayOver s) : wakeStep s =
    { s with dlyWrap := s.dlyWrap && decide (s.dlyM.toNat ≤ s.cnt.toNat) } := by
  rw [wakeStep, delayStep_not_over h]; rfl

theorem settleStep_not_over {s : State} (h : ¬ DelayOver s) : settleStep s =
    { s with dlyWrap := s.dlyWrap && decide (s.dlyM.toNat ≤ s.cnt.toNat) } := by
  rw [settleStep, delayStep_not_over h]; rfl

/-- A step takes the listed input. -/
theorem step_of_inputs {s : State} {i : Input} {rest : List Input} (h : s.inputs = i :: rest) :
    step s = inputStep i { s with inputs := rest } := by simp [step, nextInput_cons h]

/-- A step that is the Sequencer's. -/
theorem step_sequencer {s : State} {rest : List Input} (h : s.inputs = .sequencer :: rest) (hr : s.inReset = false) :
    step s = .next (sequencerStep { s with inputs := rest }) := by
  simp [step_of_inputs h, inputStep, hr]

/-- READ's accept step as one record update (R87). -/
theorem execRead_eq (p : BitVec 8) (s : State) : execRead p s = .next { s with
    kWake := s.cfgWakeMs, kSettle := s.cfgSettleUs, kThresh := s.cfgThreshUs, kTimeout := s.cfgTimeout,
    kCrit := s.critEn, pinCur := p, frame := Frame.zero, csumCalc := 0, last := s.cnt, bitidx := 0,
    done := false, busy := true, phase := .wake,
    pins := (s.pins.modify p.toNat makeOutput).modify p.toNat (setLatch false),
    dlyM := s.cnt, dlyE := s.cnt + milliseconds s.cfgWakeMs,
    dlyWrap := (s.cnt + milliseconds s.cfgWakeMs).ult s.cnt } := by
  simp only [execRead, delayStart, beginOperation, modifyPin, clearFrame, copyConfig, State.cnt]

/-- A Host access to a busy block changes neither the running operation nor any register but OVR and ILL (R119). -/
theorem busAccess_busy {a : BusAccess} {s t : State} (hb : s.busy = true) (h : busAccess a s = .next t) :
    ∃ f o i r d, t = { s with faults := f, ovr := o, ill := i, response := r, draws := d } := by
  obtain ⟨_, rfl⟩ | ⟨r, hr, ⟨_, rfl⟩ | ⟨v, _, ⟨_, _, rfl⟩ | ⟨_, rfl⟩ | ⟨h0, h, hg⟩⟩⟩ := busAccess_cases h
  · exact ⟨_, s.ovr, s.ill, .error, s.draws, rfl⟩
  · unfold busRead
    split
    · exact ⟨s.faults, s.ovr, s.ill, _, _, rfl⟩
    · exact ⟨s.faults, s.ovr, s.ill, _, s.draws, rfl⟩
  · exact ⟨_, true, s.ill, .written, s.draws, rfl⟩
  · exact ⟨s.faults, _, _, .written, s.draws, rfl⟩
  · simp [hb] at h0

end Sys2Proof.Machine
end

