-- ==== Sys2Proof/Laws/PerInstr.lean ====
section
/-! SUPPORT. The encoder of R56 read back field by field, per command: the case split over `Instr` of the encoding
statements. -/

namespace Sys2Proof.Laws

/-- The fields of an encoded word (R56). -/
theorem enc_fields (op pin : BitVec 8) (lvl : Level) :
    opField (enc op pin lvl) = op ∧ pinField (enc op pin lvl) = pin ∧ lvlField (enc op pin lvl) = lvl ∧
      rsvField (enc op pin lvl) = 0 := by
  refine ⟨?_, ?_, ?_, ?_⟩
  · apply BitVec.eq_of_getLsbD_eq
    intro i hi
    have : i < 32 := by omega
    have : i < 16 := by omega
    simp [opField, enc, *]
  · apply BitVec.eq_of_getLsbD_eq
    intro i hi
    have h1 : 8 + i < 32 := by omega
    have h2 : 8 + i < 16 := by omega
    have h3 : ¬ 8 + i < 8 := by omega
    simp [pinField, enc, *]
  · cases lvl <;> simp [lvlField, enc]
  · apply BitVec.eq_of_getLsbD_eq
    intro i hi
    have h1 : op.getLsbD (17 + i) = false := BitVec.getLsbD_of_ge _ _ (by omega)
    have h2 : pin.getLsbD (17 + i - 8) = false := BitVec.getLsbD_of_ge _ _ (by omega)
    have h3 : (BitVec.ofBool lvl).getLsbD (17 + i - 16) = false := BitVec.getLsbD_of_ge _ _ (by omega)
    simp only [rsvField, enc, BitVec.getLsbD_extractLsb', BitVec.getLsbD_or, BitVec.getLsbD_shiftLeft,
      BitVec.getLsbD_setWidth, h1, h2, h3]
    simp

namespace EncodedFields

/-- The command's word has the command's operation and operands in their fields, and RSV = 0 (R56–R60). -/
def Statement (i : Instr) : Prop :=
  opField (encode i) = opcodeOf i ∧ pinField (encode i) = pinOf i ∧ lvlField (encode i) = lvlOf i ∧
    rsvField (encode i) = 0

theorem now : Statement .now := enc_fields 0x01 0 false
theorem delayUs : Statement .delayUs := enc_fields 0x02 0 false
theorem delayMs : Statement .delayMs := enc_fields 0x03 0 false
theorem setOutput (p : BitVec 8) : Statement (.setOutput p) := enc_fields 0x04 p false
theorem setInput (p : BitVec 8) : Statement (.setInput p) := enc_fields 0x05 p false
theorem writeLevel (p : BitVec 8) (l : Level) : Statement (.writeLevel p l) := enc_fields 0x06 p l
theorem readLevel (p : BitVec 8) : Statement (.readLevel p) := enc_fields 0x07 p false
theorem read (p : BitVec 8) : Statement (.read p) := enc_fields 0x08 p false

end EncodedFields
end Sys2Proof.Laws
end

