-- ==== Sys2Proof/Laws/Steps.lean ====
section
/-! SUPPORT. Everything a Sequencer step can do, by phase, each case as one record update: the lemmas that a proof
about every step cites in the place of unfolding `sequencerStep`. -/

namespace Sys2Proof.Machine

/-- DATA_HIGH's exit (R95). -/
theorem exitDataHigh_eq (c : DWord) (s : State) : exitDataHigh c s =
    if s.bitidx.toNat + 1 < 40 then
      { s with
          frame := packBit s.frame s.bitidx.toNat (decideBit (elapsed s.t0 c) s.kThresh), bitidx := s.bitidx + 1,
          phase := .dataLow, waitLvl := false, tcnt := s.kTimeout }
    else finish { s with
          frame := packBit s.frame s.bitidx.toNat (decideBit (elapsed s.t0 c) s.kThresh), bitidx := s.bitidx + 1 } := by
  unfold exitDataHigh
  simp only [Config.nbits, startWait]
  by_cases h : s.bitidx.toNat + 1 < 40 <;> simp only [h, if_true, if_false]

/-- Everything a Sequencer step of a sampling phase can do. -/
theorem sampling_cases {s : State} (hp : isSampling s.phase = true) :
    (s.tcnt = 0 ∧ sequencerStep s = { s with
        crit := false, frame := Frame.zero, csumCalc := 0, result := .timeoutError,
        cause := timeoutCause s.phase, busy := false, done := true, phase := .idle }) ∨
    (s.tcnt ≠ 0 ∧ ∃ ls d,
      sequencerStep s = { s with lineIn := ls, draws := d, tcnt := s.tcnt - 1 } ∨
      (s.phase = .ackLow ∧ sequencerStep s = { s with
        lineIn := ls, draws := d, phase := .ackHigh, waitLvl := false, tcnt := s.kTimeout }) ∨
      (s.phase = .ackHigh ∧ sequencerStep s = { s with
        lineIn := ls, draws := d, phase := .dataLow, waitLvl := false, tcnt := s.kTimeout }) ∨
      (s.phase = .dataLow ∧ sequencerStep s = { s with
        lineIn := ls, draws := d, phase := .dataHigh, waitLvl := true, tcnt := s.kTimeout, t0 := s.cnt }) ∨
      (s.phase = .dataHigh ∧ s.bitidx.toNat < 39 ∧ sequencerStep s = { s with
        lineIn := ls, draws := d,
        frame := packBit s.frame s.bitidx.toNat (decideBit (elapsed s.t0 s.cnt) s.kThresh), bitidx := s.bitidx + 1,
        phase := .dataLow, waitLvl := false, tcnt := s.kTimeout }) ∨
      (s.phase = .dataHigh ∧ 39 ≤ s.bitidx.toNat ∧ sequencerStep s = finish { s with
        lineIn := ls, draws := d,
        frame := packBit s.frame s.bitidx.toNat (decideBit (elapsed s.t0 s.cnt) s.kThresh),
        bitidx := s.bitidx + 1 })) := by
  rw [sequencerStep_sampling hp]
  obtain ⟨h0, h⟩ | ⟨h0, _, h⟩ | ⟨h0, _, h⟩ := waitStep_cases (timeoutCause s.phase) (exitOf s.phase) s <;> rw [h]
  · exact .inl ⟨h0, rfl⟩
  · refine .inr ⟨h0, s.lineIn.tail, (if s.lineIn = [] then s.draws + 1 else s.draws), .inr ?_⟩
    rw [readLine_snd]
    generalize s.phase = q at *
    cases q <;> simp [isSampling] at hp
    · exact .inl ⟨rfl, rfl⟩
    · exact .inr (.inl ⟨rfl, rfl⟩)
    · exact .inr (.inr (.inl ⟨rfl, rfl⟩))
    · right; right; right
      simp only [exitOf, exitDataHigh_eq]
      split
      · exact .inl ⟨trivial, by omega, rfl⟩
      · exact .inr ⟨trivial, by omega, rfl⟩
  · refine .inr ⟨h0, s.lineIn.tail, (if s.lineIn = [] then s.draws + 1 else s.draws), .inl ?_⟩
    rw [readLine_snd]

/-- Everything a Sequencer step of the other phases can do. -/
theorem sequencerStep_cases (s : State) :
    (s.phase = .idle ∧ sequencerStep s = s) ∨
    ((s.phase = .delay ∨ s.phase = .wake ∨ s.phase = .settle) ∧ ¬ DelayOver s ∧
      sequencerStep s = { s with dlyWrap := s.dlyWrap && decide (s.dlyM.toNat ≤ s.cnt.toNat) }) ∨
    (s.phase = .delay ∧ DelayOver s ∧
      sequencerStep s = { s with dlyWrap := false, busy := false, done := true, phase := .idle }) ∨
    (s.phase = .wake ∧ DelayOver s ∧ sequencerStep s = { s with
        pins := (s.pins.modify s.pinCur.toNat (setLatch true)).modify s.pinCur.toNat makeInput, phase := .settle,
        dlyM := s.cnt, dlyE := s.cnt + microseconds s.kSettle,
        dlyWrap := (s.cnt + microseconds s.kSettle).ult s.cnt }) ∨
    (s.phase = .settle ∧ DelayOver s ∧ sequencerStep s = { s with
        dlyWrap := false, crit := s.crit || s.kCrit, phase := .ackLow, waitLvl := true, tcnt := s.kTimeout }) ∨
    isSampling s.phase = true := by
  have one : s.phase = .idle ∨ s.phase = .delay ∨ s.phase = .wake ∨ s.phase = .settle ∨
      isSampling s.phase = true := by cases s.phase <;> simp [isSampling]
  rcases one with hq | hq | hq | hq | hq
  · exact .inl ⟨hq, by rw [sequencerStep, hq]⟩
  · by_cases h : DelayOver s
    · exact .inr (.inr (.inl ⟨hq, h, by rw [← delayPhaseStep_over h, sequencerStep, hq]⟩))
    · exact .inr (.inl ⟨.inl hq, h, by rw [← delayPhaseStep_not_over h, sequencerStep, hq]⟩)
  · by_cases h : DelayOver s
    · exact .inr (.inr (.inr (.inl ⟨hq, h, by rw [← wakeStep_over h, sequencerStep, hq]⟩)))
    · exact .inr (.inl ⟨.inr (.inl hq), h, by rw [← wakeStep_not_over h, sequencerStep, hq]⟩)
  · by_cases h : DelayOver s
    · exact .inr (.inr (.inr (.inr (.inl ⟨hq, h, by rw [← settleStep_over h, sequencerStep, hq]⟩))))
    · exact .inr (.inl ⟨.inr (.inr hq), h, by rw [← settleStep_not_over h, sequencerStep, hq]⟩)
  · exact .inr (.inr (.inr (.inr (.inr hq))))

/-- What the WAKE step's change of the pins does (R88). -/
theorem wake_pins {s t : State}
    (h : t.pins = (s.pins.modify s.pinCur.toNat (setLatch true)).modify s.pinCur.toNat makeInput) :
    t.numPins = s.numPins ∧ (∀ q, q ≠ s.pinCur → t.pin q = s.pin q) ∧
      (s.pinCur.toNat < s.numPins → t.pin s.pinCur = ⟨.input, true, true, false⟩) := by
  have h1 : ∀ q, t.pin q = (modifyPin s.pinCur makeInput (modifyPin s.pinCur (setLatch true) s)).pin q := by
    intro q; simp [State.pin, h]
  refine ⟨by simp [State.numPins, h], ?_, ?_⟩
  · intro q hq
    rw [h1, modifyPin_pin_other _ _ hq, modifyPin_pin_other _ _ hq]
  · intro hn
    rw [h1, modifyPin_pin_same _ (by rw [modifyPin_numPins]; exact hn), modifyPin_pin_same _ hn]
    rfl

/-- What READ's accept step does to the pins (R87). -/
theorem read_pins {p : BitVec 8} {s t : State}
    (h : t.pins = (s.pins.modify p.toNat makeOutput).modify p.toNat (setLatch false)) :
    t.numPins = s.numPins ∧ (∀ q, q ≠ p → t.pin q = s.pin q) ∧
      (p.toNat < s.numPins → t.pin p = ⟨.output, false, false, true⟩) := by
  have h1 : ∀ q, t.pin q = (modifyPin p (setLatch false) (modifyPin p makeOutput s)).pin q := by
    intro q; simp [State.pin, h]
  refine ⟨by simp [State.numPins, h], ?_, ?_⟩
  · intro q hq
    rw [h1, modifyPin_pin_other _ _ hq, modifyPin_pin_other _ _ hq]
  · intro hn
    rw [h1, modifyPin_pin_same _ (by rw [modifyPin_numPins]; exact hn), modifyPin_pin_same _ hn]
    rfl

/-! ### Every step -/

/-- The state in which a step's input is taken differs from the state before it in the inputs and the draws only. -/
theorem step_next {s t : State} (h : step s = .next t) :
    ∃ ins d, inputStep (nextInput s).1 { s with inputs := ins, draws := d } = .next t := by
  have e := nextInput_snd s
  exact ⟨s.inputs.tail, (if s.inputs = [] then s.draws + 1 else s.draws), by rw [← e]; exact h⟩

/-- Everything a step can do. -/
theorem step_cases {s t : State} (h : step s = .next t) :
    ∃ ins d, ∃ u, u = { s with inputs := ins, draws := d } ∧
      ((∃ a, (nextInput s).1 = .bus a ∧ busAccess a u = .next t) ∨
       (SequencerSteps s ∧ t = sequencerStep u) ∨
       (∃ k, (nextInput s).1 = .clock k ∧ s.inReset = false ∧ t = clockStep k u) ∨
       (ReleasesReset s ∧ t = releaseReset u) ∨
       t = { u with inReset := true } ∨ t = u) := by
  obtain ⟨ins, d, h⟩ := step_next h
  refine ⟨ins, d, _, rfl, ?_⟩
  obtain ⟨a, ha, h⟩ | ⟨hi, hr, rfl⟩ | ⟨k, hk, hr, rfl⟩ | ⟨h1, hr, rfl⟩ | ⟨_, rfl⟩ | ⟨_, rfl⟩ := inputStep_cases h
  · exact .inl ⟨a, ha, h⟩
  · exact .inr (.inl ⟨⟨hi, hr⟩, rfl⟩)
  · exact .inr (.inr (.inl ⟨k, hk, hr, rfl⟩))
  · exact .inr (.inr (.inr (.inl ⟨⟨h1, hr⟩, rfl⟩)))
  · exact .inr (.inr (.inr (.inr (.inl rfl))))
  · exact .inr (.inr (.inr (.inr (.inr rfl))))

/-- Everything a step that is a Host access can do: it touches only FAULTS, OVR, ILL, the answer and the draws, or it
is the accept step of a command, or it writes one configuration register or ARG. -/
theorem hostStep_cases {s u t : State} {ins : List Input} {d : Nat} {a : BusAccess}
    (hu : u = { s with inputs := ins, draws := d }) (ha : (nextInput s).1 = .bus a) (h : busAccess a u = .next t) :
    (∃ f o i r d', t = { u with faults := f, ovr := o, ill := i, response := r, draws := d' }) ∨
    (∃ w i, Accepts s i ∧ decode s.numPins w = .ok i ∧ exec i { u with response := .written } = .next t) ∨
    (∃ off v, WritesIdle s off v ∧
      ((off = 0x04 ∧ t = { u with response := .written, arg := v }) ∨
       (off = 0x24 ∧ t = { u with response := .written, cfgWakeMs := v }) ∨
       (off = 0x28 ∧ t = { u with response := .written, cfgSettleUs := v }) ∨
       (off = 0x2C ∧ t = { u with response := .written, cfgThreshUs := v }) ∨
       (off = 0x30 ∧ t = { u with response := .written, cfgTimeout := v }) ∨
       (off = 0x34 ∧ t = { u with response := .written, critEn := v.getLsbD 0 }))) := by
  obtain ⟨_, rfl⟩ | ⟨r, hr, ⟨_, rfl⟩ | ⟨v, hv, ⟨_, _, rfl⟩ | ⟨_, rfl⟩ | ⟨h0, hW, hg⟩⟩⟩ := busAccess_cases h
  · exact .inl ⟨_, u.ovr, u.ill, .error, u.draws, rfl⟩
  · left; unfold busRead; split
    · exact ⟨u.faults, u.ovr, u.ill, _, _, rfl⟩
    · exact ⟨u.faults, u.ovr, u.ill, _, u.draws, rfl⟩
  · exact .inl ⟨_, true, u.ill, .written, u.draws, rfl⟩
  · exact .inl ⟨u.faults, _, _, .written, u.draws, rfl⟩
  · obtain ⟨hrs, hw, ho, _⟩ := admit_some hr
    have hrs : s.inReset = false := by rw [hu] at hrs; exact hrs
    have hb : s.busy = false := by rw [hu] at h0; exact h0
    obtain ⟨off, w, op⟩ := a
    simp only at hw ho hv; subst hw ho hv
    obtain ⟨rfl, ⟨e, _, rfl⟩ | ⟨i, hd, he⟩⟩ | ⟨rfl, rfl⟩ | ⟨rfl, rfl⟩ | ⟨rfl, rfl⟩ | ⟨rfl, rfl⟩ | ⟨rfl, rfl⟩ | ⟨rfl, rfl⟩ := registerWrite_cases hW hg
    · exact .inl ⟨_, u.ovr, true, .written, u.draws, rfl⟩
    · have hd : decode s.numPins v = .ok i := by rw [hu] at hd; exact hd
      exact .inr (.inl ⟨v, i, ⟨v, ha, hrs, hb, hd⟩, hd, he⟩)
    · exact .inr (.inr ⟨_, v, ⟨ha, hrs, hb⟩, .inl ⟨rfl, rfl⟩⟩)
    · exact .inr (.inr ⟨_, v, ⟨ha, hrs, hb⟩, .inr (.inl ⟨rfl, rfl⟩)⟩)
    · exact .inr (.inr ⟨_, v, ⟨ha, hrs, hb⟩, .inr (.inr (.inl ⟨rfl, rfl⟩))⟩)
    · exact .inr (.inr ⟨_, v, ⟨ha, hrs, hb⟩, .inr (.inr (.inr (.inl ⟨rfl, rfl⟩)))⟩)
    · exact .inr (.inr ⟨_, v, ⟨ha, hrs, hb⟩, .inr (.inr (.inr (.inr (.inl ⟨rfl, rfl⟩))))⟩)
    · exact .inr (.inr ⟨_, v, ⟨ha, hrs, hb⟩, .inr (.inr (.inr (.inr (.inr ⟨rfl, rfl⟩))))⟩)

/-! ### Packing -/

/-- Packing a bit leaves every other bit of its byte. -/
theorem orBit_other (b : Byte) (bit : Bool) {j j' : Nat} (h : j < 8) (h' : j' < 8) (hne : j ≠ j') :
    (orBit b j bit).getLsbD (7 - j') = b.getLsbD (7 - j') := by
  cases bit
  · simp [orBit]
  · have : ∀ j j' : Fin 8, j ≠ j' → ((1#8 <<< (7 - j.val)).getLsbD (7 - j'.val)) = false := by decide
    have := this ⟨j, h⟩ ⟨j', h'⟩ (by simpa using hne)
    simp only [orBit, BitVec.getLsbD_or]
    have e : (BitVec.ofBool true).setWidth 8 = 1#8 := by decide
    rw [e, this]; simp

/-- Packing bit `k` leaves every other bit of the frame. -/
theorem frameBit_packBit_other (f : Frame) {i k : Nat} (bit : Bool) (hi : i < 40) (hk : k < 40) (hne : i ≠ k) :
    frameBit (packBit f k bit) i = frameBit f i := by
  have hk5 : k / 8 < 5 := by omega
  have hi5 : i / 8 < 5 := by omega
  have : i / 8 ≠ k / 8 ∨ k % 8 ≠ i % 8 := by omega
  have hkm : k % 8 < 8 := by omega
  have him : i % 8 < 8 := by omega
  unfold frameBit packBit
  generalize k / 8 = kq at *; generalize i / 8 = iq at *
  generalize k % 8 = km at *; generalize i % 8 = im at *
  interval_cases kq <;> interval_cases iq <;> simp at this ⊢ <;>
    exact orBit_other _ _ hkm him this

/-! ### Counting -/

/-- A decrement of a counter that is not 0. -/
theorem tcnt_pred {x : Word} (h : x ≠ 0) : (x - 1).toNat + 1 = x.toNat := by
  have h0 : 0 < x.toNat := Nat.pos_of_ne_zero fun h' => h (BitVec.eq_of_toNat_eq (by simpa using h'))
  have hx := x.isLt
  have e : (x - 1).toNat = (2 ^ 32 - 1 + x.toNat) % 2 ^ 32 := BitVec.toNat_sub x 1
  omega

/-- BITIDX counts up to 40 without a wrap. -/
theorem bitidx_succ {x : BitVec 6} (h : x.toNat < 40) : (x + 1).toNat = x.toNat + 1 := by
  have e : (x + 1).toNat = (x.toNat + 1) % 2 ^ 6 := BitVec.toNat_add x 1
  omega

/-- The block has the number of pins it was reset with. -/
theorem pinsAtReset_length (draw : Nat) : ∀ n p, (pinsAtReset draw p n).length = n := by
  intro n
  induction n <;> intro p <;> simp [pinsAtReset, *]

end Sys2Proof.Machine
end

