-- ==== Sys2Proof/Tests/Slice0.lean ====
section
/-! SUPPORT. Tests. Expected values are those of the spec: the encodings of spec/30_encoding.md R56, R57 and the words
of R68, and the vectors of spec/95_test_vectors.md, named in each comment. Then one witness per statement of
Obligations.lean that has hypotheses. -/

namespace Sys2Proof.Tests

open Sys2Proof.Machine

/-! ### Small states: a block with 8 pins (the vectors of spec/95 take NUM_PINS = 8) -/

/-- Eight input pins without pulls, but for pin 4. -/
def pins8 (four : Pin) : List Pin :=
  let p : Pin := ⟨.input, false, false, false⟩
  [p, p, p, p, four, p, p, p]

/-- After reset, with the draws fixed: the counter at 0, the pins as `pins8`, CFG_TIMEOUT = 3. -/
def idle8 : State :=
  { State.afterReset Config.defaults 8 0 with cntInit := 0, pins := pins8 ⟨.input, false, false, false⟩, cfgTimeout := 3 }

/-- A DELAY_US 5 begun at counter value 1000, at true time 1005. -/
def delay8 : State :=
  { idle8 with arg := 5, T := 1005, busy := true, phase := .delay, dlyM := 1000, dlyE := 1005 }

/-- A READ of pin 4 begun at 0 with a wake hold of 10 ms, whose time is over. -/
def wake8 : State :=
  { idle8 with
      T := 10000, busy := true, phase := .wake, pinCur := 4, pins := pins8 ⟨.output, false, false, true⟩,
      dlyM := 0, dlyE := 10000, kWake := 10, kSettle := 40, kThresh := 40, kTimeout := 3, kCrit := true }

/-- Its settle delay, whose time is over. -/
def settle8 : State :=
  { wake8 with T := 10040, phase := .settle, pins := pins8 ⟨.input, true, true, false⟩, dlyM := 10000, dlyE := 10040 }

/-- Its wait of phase `ph` for bit `i`, with a full timeout counter. -/
def wait8 (ph : Phase) (i : BitVec 6) : State :=
  { settle8 with crit := true, phase := ph, bitidx := i, waitLvl := waitLevel ph, tcnt := 3 }

/-- `s` with `i` as its next input. -/
def on (i : Input) (s : State) : State := { s with inputs := [i] }

/-- The CMD write of a word. -/
def cmd (w : Word) : Input := .bus ⟨0x00, .word, .write w⟩

/-- The state after one step. -/
def after (s : State) : State :=
  match step s with
  | .next t => t
  | .fault _ => s
  | .refused _ => s

/-! ### WellFormed: each check refuses an ill-formed command (R58) -/

theorem test_wf_set_output : (Instr.setOutput 8).wellFormed 8 = false := by decide
theorem test_wf_set_input : (Instr.setInput 255).wellFormed 8 = false := by decide
theorem test_wf_write_level : (Instr.writeLevel 1 true).wellFormed 1 = false := by decide
theorem test_wf_read_level : (Instr.readLevel 8).wellFormed 8 = false := by decide
theorem test_wf_read : (Instr.read 9).wellFormed 8 = false := by decide
theorem test_wf_accepts : (Instr.read 7).wellFormed 8 = true ∧ Instr.now.wellFormed 1 = true := by decide

/-! ### Decoding: words written out from R56 and R57 as LVL at bit 16, PIN at bit 8, OP at bit 0 -/

theorem test_decode_now : decode 8 0b0000000000000000_00000000_00000001 = .ok .now := by decide
theorem test_decode_delay_us : decode 8 0b0000000000000000_00000000_00000010 = .ok .delayUs := by decide
theorem test_decode_delay_ms : decode 8 0b0000000000000000_00000000_00000011 = .ok .delayMs := by decide
theorem test_decode_set_output : decode 8 0b0000000000000000_00000011_00000100 = .ok (.setOutput 3) := by decide
theorem test_decode_set_input : decode 8 0b0000000000000000_00000101_00000101 = .ok (.setInput 5) := by decide
theorem test_decode_write_level :
    decode 8 0b0000000000000001_00000111_00000110 = .ok (.writeLevel 7 true) := by decide
theorem test_decode_read_level :
    decode 256 0b0000000000000000_11111111_00000111 = .ok (.readLevel 255) := by decide
theorem test_decode_read : decode 8 0b0000000000000000_00000110_00001000 = .ok (.read 6) := by decide

/-- F5, F6 of spec/95 2.6: OP = 0x00 and OP = 0x09. -/
theorem test_illegal_op : decode 8 0x00000000 = .error .unknownOp ∧ decode 8 0x00000009 = .error .unknownOp := by
  decide
/-- T12 of spec/95 2.1: DELAY_US with PIN = 1. -/
theorem test_illegal_pin_given : decode 8 0x00000102 = .error .pinNotZero := by decide
/-- G8 of spec/95 2.2: pin 8 of 8. -/
theorem test_illegal_pin_range : decode 8 0x00000804 = .error .pinOutOfRange := by decide
/-- G9 of spec/95 2.2: SET_OUTPUT with LVL = 1. -/
theorem test_illegal_level : decode 8 0x00010304 = .error .levelNotZero := by decide
/-- G10 of spec/95 2.2: bit 17 set. -/
theorem test_illegal_reserved : decode 8 0x00020306 = .error .reservedBits := by decide

/-! ### Commands, one step each -/

/-- T1 of spec/95 2.1. -/
theorem test_now :
    let t := after (on (cmd 0x00000001) { idle8 with cntInit := 0x0000000123456789 })
    regValue t .timeLo = 0x23456789 ∧ regValue t .timeHi = 0x00000001 ∧ t.done = true ∧ t.busy = false := by decide
/-- T7 of spec/95 2.1: a target past the counter's wrap. -/
theorem test_delay_us :
    let t := after (on (cmd 0x00000002) { idle8 with cntInit := 0xFFFFFFFFFFFFFFF0, arg := 40 })
    t.dlyE = 0x18 ∧ t.dlyWrap = true ∧ t.busy = true ∧ t.phase = .delay := by decide
/-- T10 of spec/95 2.1: the product is computed in 64 bits. -/
theorem test_delay_ms :
    (after (on (cmd 0x00000003) { idle8 with arg := 0xFFFFFFFF })).dlyE = 0x000003E7FFFFFC18 := by decide
/-- G5 of spec/95 2.2, on a pin whose latch holds 1: the latch is kept. -/
theorem test_set_output :
    (after (on (cmd 0x00000404) { idle8 with pins := pins8 ⟨.input, true, true, false⟩ })).pin 4 =
      ⟨.output, true, false, true⟩ := by decide
/-- G1 of spec/95 2.2. -/
theorem test_set_input :
    (after (on (cmd 0x00000405) { idle8 with pins := pins8 ⟨.output, true, false, true⟩ })).pin 4 =
      ⟨.input, true, true, false⟩ := by decide
/-- G6 of spec/95 2.2; the pins beside it stay. -/
theorem test_write_level :
    let t := after (on (cmd 0x00010406) idle8)
    (t.pin 4).out = true ∧ (t.pin 3).out = false ∧ (t.pin 5).out = false ∧ (t.pin 4).dir = .input := by decide
/-- G2 of spec/95 2.2: STATUS = 0x00000102. -/
theorem test_read_level_high :
    regValue (after (on (cmd 0x00000307) { idle8 with lineIn := [true, false] })) .status = 0x00000102 := by decide
/-- G3 of spec/95 2.2: STATUS = 0x00000002. -/
theorem test_read_level_low :
    regValue (after (on (cmd 0x00000307) { idle8 with level := true, lineIn := [false] })) .status = 0x00000002 := by
  decide
/-- S1 of spec/95 2.3. -/
theorem test_read :
    let t := after (on (cmd 0x00000408) { idle8 with cntInit := 0x1234 })
    t.kWake = 10 ∧ t.last = 0x1234 ∧ t.bitidx = 0 ∧ t.phase = .wake ∧ t.pin 4 = ⟨.output, false, false, true⟩ ∧
      t.dlyE = 0x3944 := by decide

/-! ### Sequencer steps -/

/-- Step 2 of T7 of spec/95 2.1: the wrap is seen, and the normal comparison is made with the same sample. -/
theorem test_delay_wrap_seen :
    let t := after (on .sequencer { delay8 with T := 5, dlyM := 0xFFFFFFFFFFFFFFF0, dlyE := 0x18, dlyWrap := true })
    t.dlyWrap = false ∧ t.busy = true := by decide
/-- T8 of spec/95 2.1: the blind spot. -/
theorem test_delay_blind_spot :
    (after (on .sequencer { delay8 with T := 0x10, dlyM := 0xFFFFFFFFFFFFFF00, dlyE := 0xFFFFFFFFFFFFFF10 })).busy =
      true := by decide
/-- S16 of spec/95 2.3: the pin after the release. -/
theorem test_wake_release :
    let t := after (on .sequencer wake8)
    t.pin 4 = ⟨.input, true, true, false⟩ ∧ t.phase = .settle ∧ t.dlyE = 10040 := by decide
/-- S12 of spec/95 2.3: CRIT rises at the SETTLE exit. -/
theorem test_settle_exit :
    let t := after (on .sequencer settle8)
    t.crit = true ∧ t.phase = .ackLow ∧ t.tcnt = 3 ∧ t.waitLvl = true := by decide
/-- L1-4 (d) of spec/95 1 with i = 7: STATUS = 0x0000004A + 7 · 0x800, and no byte of the frame is left. -/
theorem test_timeout :
    let t := after (on .sequencer { wait8 .dataHigh 7 with tcnt := 0, frame := ⟨0xFE, 0, 0, 0, 0⟩ })
    regValue t .status = 0x0000384A ∧ regValue t .frameLo = 0 ∧ regValue t .frameHi = 0 := by decide
/-- S6 and S7 of spec/95 2.3: widths 40 and 41 across a counter wrap, threshold 40. -/
theorem test_bit_decision : decideBit (elapsed (0 - 10) 30) 40 = false ∧ decideBit (elapsed (0 - 10) 31) 40 = true := by
  decide
/-- S8, S9, S10 of spec/95 2.3. -/
theorem test_packing :
    packBits (fun i => [1, 0, 1, 0, 0, 0, 0, 1, 1].getD i 0 == 1 || i == 39) 40 = ⟨0xA1, 0x80, 0, 0, 0x01⟩ := by
  decide
/-- L1-1 of spec/95 1: the sum, not the XOR. -/
theorem test_checksum :
    checksum8 0x02 0x8C 0x00 0xEB = 0x79 ∧ checksum8 0xFF 0xFF 0xFF 0xFF = 0xFC ∧ checksum8 0x80 0x80 0 0 = 0 ∧
      validate (checksum8 0x02 0x8C 0x00 0xEB) 0x65 = .checksumError := by decide
/-- The last bit of P5 of spec/95 3: FRAME_LO, FRAME_HI and STATUS of the end state. -/
theorem test_finish :
    let t := after (on .sequencer { wait8 .dataHigh 39 with
      T := 13746, t0 := 13676, frame := ⟨0x02, 0x8C, 0, 0xEB, 0x64⟩, lineIn := [false] })
    regValue t .frameLo = 0xEB008C02 ∧ regValue t .frameHi = 0x00007965 ∧ regValue t .status = 0x00014006 := by
  decide

/-! ### Accesses and the host's side -/

/-- F1 to F4 of spec/95 2.6. -/
theorem test_bus_errors :
    admittedReg idle8 ⟨0x08, .byte, .read⟩ = none ∧ admittedReg idle8 ⟨0x0A, .word, .read⟩ = none ∧
      admittedReg idle8 ⟨0x38, .word, .read⟩ = none ∧ admittedReg idle8 ⟨0x0C, .word, .write 0⟩ = none := by decide
/-- F7 of spec/95 2.6: an overrun, not an illegal command. -/
theorem test_overrun_first :
    let t := after (on (cmd 0x00000000) delay8)
    t.faults = [.overrun 0x00 0] ∧ t.ovr = true ∧ t.ill = false := by decide
/-- F8 of spec/95 2.6. -/
theorem test_clear_ill :
    let t := after (on (.bus ⟨0x08, .word, .write 0x00000400⟩)
      { delay8 with ill := true, faults := [.illegalCommand 0] })
    t.ill = false ∧ t.ovr = false ∧ t.faults = [.illegalCommand 0] := by decide
/-- P1 of spec/95 3, the host's statements. -/
theorem test_expansion :
    expand false (.delayUs 40) = [.write .arg 0x28, .write .cmd 0x00000002, .poll] ∧
      expand true (.read 4) = [.write .cmd 0x00000408] := by decide
/-- The last turn of `NOW64 -> t` (R68), with the values of T1 of spec/95 2.1. -/
theorem test_now64 :
    hostTurn ⟨(expand false (.now64 "t")).drop 3, [("hi", .word 0x00000001), ("lo", .word 0x23456789)]⟩ idle8 =
      .next (⟨[], [("t", .dword 0x0000000123456789), ("hi", .word 0x00000001), ("lo", .word 0x23456789)]⟩, idle8) := by
  rfl
/-- P2 of spec/95 3, `R STATUS -> s2`: an earlier binding of the name is replaced, any other kept. -/
theorem test_read_binds :
    bindAnswer (.read .status "s2") (.data 0x00000002) [("s1", .word 0x00000102), ("s2", .word 0)] =
      [("s2", .word 0x00000002), ("s1", .word 0x00000102)] := by decide
/-- L1-2 of spec/95 1: b2 = 0x80, b3 = 0x05 and T_OFFSET = 1.5 give 1.0. -/
theorem test_temperature :
    exactTemperature (temperatureNegative ⟨0, 0, 0x80, 0x05, 0⟩) (temperatureMagnitude ⟨0, 0, 0x80, 0x05, 0⟩) (3 / 2) =
      1 := by
  have h1 : temperatureNegative ⟨0, 0, 0x80, 0x05, 0⟩ = true := by decide
  have h2 : temperatureMagnitude ⟨0, 0, 0x80, 0x05, 0⟩ = 5 := by decide
  rw [h1, h2]
  norm_num [exactTemperature]

/-! ### Witnesses: for each statement of Obligations.lean with hypotheses, states and operands that meet them -/

/-- A host read of a register. -/
def reads (r : Reg) : Input := .bus ⟨regOffset r, .word, .read⟩

theorem delay8_inv : BlockInv delay8 := by constructor <;> decide
theorem wake8_inv : BlockInv wake8 := by constructor <;> decide
theorem settle8_inv : BlockInv settle8 := by constructor <;> decide
theorem idle8_inv : BlockInv idle8 := by constructor <;> decide
theorem ackLow8_inv : BlockInv (wait8 .ackLow 0) := by constructor <;> decide
theorem dataHigh8_inv : BlockInv (wait8 .dataHigh 39) := by constructor <;> decide

theorem on_inv {s : State} (i : Input) (h : BlockInv s) : BlockInv (on i s) := { h with }

theorem witness_DecodeOfEncodeIsTheCommand :
    (Instr.read 255).wellFormed 256 = true ∧ (Instr.writeLevel 0 true).wellFormed 1 = true := by decide
theorem witness_LegalWordsAreTheEncodings :
    decode 8 0x00010706 = .ok (.writeLevel 7 true) ∧ decode 256 0x0000FF08 = .ok (.read 255) := by decide
/-- The second clause, at OP 0x00, OP 0x09 and PIN = NUM_PINS. -/
theorem witness_IllegalWordsAreDroppedAndRecorded :
    idle8.inReset = false ∧ idle8.busy = false ∧ (on (cmd 0x09) idle8).inputs = [cmd 0x09] ∧
      decode idle8.numPins 0x00 = .error .unknownOp ∧ decode idle8.numPins 0x09 = .error .unknownOp ∧
      decode idle8.numPins 0x00000804 = .error .pinOutOfRange := by decide
theorem witness_StepRunsTheDecodedCommand :
    (on (cmd 0x00000708) idle8).inputs = [cmd 0x00000708] ∧ idle8.inReset = false ∧ idle8.busy = false ∧
      decode idle8.numPins 0x00000708 = .ok (.read 7) := by decide
theorem witness_TheBlockNeverStops :
    (on (cmd (encode (.read 7))) idle8).inputs = [cmd (encode (.read 7))] ∧ idle8.inReset = false ∧
      idle8.busy = false ∧ (Instr.read 7).wellFormed idle8.numPins = true := by decide

/-- The hypotheses of the three clauses of `CommandRule op legal`, met by CMD writes of `w` (legal) and `v` (not). -/
def CommandWitness (op : BitVec 8) (legal : State → Word → Prop) (w v : Word) : Prop :=
  (on (cmd w) delay8).inputs = [cmd w] ∧ idle8.inReset = false ∧ delay8.inReset = false ∧ opField w = op ∧
    opField v = op ∧ delay8.busy = true ∧ idle8.busy = false ∧ ¬ legal idle8 v ∧ legal idle8 w

theorem witness_NowStoresTheCounterInTime : CommandWitness 0x01 legalPinless 0x00000001 0x00000101 := by
  unfold CommandWitness legalPinless; decide
theorem witness_DelayMsIsDelayUsTimes1000 : CommandWitness 0x03 legalPinless 0x00000003 0x00020003 := by
  unfold CommandWitness legalPinless; decide
theorem witness_SetOutputMakesThePinAnOutput :
    CommandWitness 0x04 legalOnPin 0x00000704 0x00000804 ∧ (7 : BitVec 8).toNat < idle8.numPins := by
  unfold CommandWitness legalOnPin; decide
theorem witness_SetInputMakesThePinAnInput :
    CommandWitness 0x05 legalOnPin 0x00000005 0x00010005 ∧ (0 : BitVec 8).toNat < idle8.numPins := by
  unfold CommandWitness legalOnPin; decide
theorem witness_WriteLevelSetsTheLatch :
    CommandWitness 0x06 (fun s w => rsvField w = 0 ∧ (pinField w).toNat < s.numPins) 0x00010706 0x00010806 ∧
      (7 : BitVec 8).toNat < idle8.numPins := by
  unfold CommandWitness; decide
theorem witness_ReadAcceptStartsTheHandshake :
    CommandWitness 0x08 legalOnPin 0x00000708 0x00000808 ∧ (7 : BitVec 8).toNat < idle8.numPins := by
  unfold CommandWitness legalOnPin; decide
/-- Both clauses: an input pin with a listed answer; no listed answer; an output pin. -/
theorem witness_ReadLevelSamplesTheLine :
    CommandWitness 0x07 legalOnPin 0x00000707 0x00000807 ∧
      ((idle8.pin 7).dir = .input ∧ ({ idle8 with lineIn := [true] } : State).lineIn = [true]) ∧
      idle8.lineIn = [] ∧ (wake8.pin 4).dir = .output := by
  unfold CommandWitness legalOnPin; decide
/-- DELAY_US: the command's clauses, a Sequencer step before and at the target, and an overrun at both ends of the
guarded offsets. -/
theorem witness_DelayUsRunsUntilTheTarget :
    CommandWitness 0x02 legalPinless 0x00000002 0x00010002 ∧
      ((on .sequencer delay8).inputs = [.sequencer] ∧ delay8.inReset = false ∧ delay8.phase = .delay ∧
        DelayOver delay8 ∧ ¬ DelayOver { delay8 with T := 1004 }) ∧
      ((0x00 : BitVec 6) ∈ [0x00, 0x04, 0x24, 0x28, 0x2C, 0x30, 0x34] ∧
        (0x34 : BitVec 6) ∈ [0x00, 0x04, 0x24, 0x28, 0x2C, 0x30, 0x34]) := by
  unfold CommandWitness legalPinless DelayOver; decide
theorem witness_OverrunsAreDiscarded :
    (on (.bus ⟨0x34, .word, .write 1⟩) delay8).inputs = [.bus ⟨0x34, .word, .write 1⟩] ∧ delay8.inReset = false ∧
      delay8.busy = true ∧ (0x34 : BitVec 6) ∈ [0x00, 0x04, 0x24, 0x28, 0x2C, 0x30, 0x34] := by decide
theorem witness_IdleHighInputReadsHigh :
    let s := { settle8 with lineIn := [true] }
    (s.pin 4).dir = .input ∧ (s.pin 4).pu = true ∧ IdleHigh 4 s ∧ ∃ t, exec (.readLevel 4) s = .next t :=
  ⟨rfl, rfl, fun _ => rfl, _, rfl⟩
/-- An execution in which only the Clock steps. -/
def clockOnly (n : Nat) : State := { on (.clock 0) idle8 with T := n }

/-- The clauses in turn; the third at `clockOnly`. -/
theorem witness_OnlyTheClockMovesTime :
    (∃ t, step (on (.clock 0) idle8) = .next t) ∧
      ((on (.clock 0) idle8).inputs = [.clock 0] ∧ idle8.inReset = false) ∧
      Execution clockOnly ∧ ClockFair clockOnly ∧ NeverReset clockOnly :=
  ⟨⟨_, rfl⟩, ⟨rfl, rfl⟩, fun _ => ⟨_, rfl, rfl⟩, fun n => ⟨n, le_rfl, ⟨0, rfl⟩, rfl⟩, fun _ h => by cases h.2⟩
/-- Across a wrap (T3 of spec/95 2.1), and at the longest elapsed time. -/
theorem witness_ElapsedIsTheTrueElapsedTime :
    let a := { idle8 with cntInit := 0xFFFFFFFFFFFFFFFF }
    let b := { a with T := 1 }
    let c := { a with T := 2 ^ 64 - 1 }
    a.cntInit = b.cntInit ∧ a.T ≤ b.T ∧ b.T - a.T < 2 ^ 64 ∧ a.T ≤ c.T ∧ c.T - a.T < 2 ^ 64 := by decide
/-- The Clock and the Sequencer take turns from `delay8` on, one microsecond at a time: state `2k` is before a Clock
step at true time `1005 + k`, state `2k + 1` before a Sequencer step. The delay is over in the first of those. -/
def turns (n : Nat) : State :=
  { delay8 with
      T := 1005 + (n + 1) / 2, inputs := [if n % 2 = 0 then .clock 0 else .sequencer],
      busy := decide (n < 2), done := decide (2 ≤ n), phase := if n < 2 then .delay else .idle }

theorem turns_clock (k : Nat) : (turns (2 * k)).inputs = [.clock 0] ∧ (turns (2 * k)).T = 1005 + k := by
  constructor
  · simp [turns]
  · simp only [turns]; omega

theorem turns_sequencer (k : Nat) :
    (turns (2 * k + 1)).inputs = [.sequencer] ∧ (turns (2 * k + 1)).T = 1005 + k + 1 := by
  constructor
  · simp [turns]
  · simp only [turns]; omega

theorem turns_execution : Execution turns := by
  intro n
  obtain ⟨k, rfl | rfl⟩ := Nat.even_or_odd' n
  · refine ⟨_, step_of_inputs (turns_clock k).1, ?_⟩
    have h : (2 * k + 1 + 1) / 2 = (2 * k + 1) / 2 + 1 := by omega
    have h2 : 2 * k + 1 < 2 ↔ 2 * k < 2 := by omega
    have h3 : 2 ≤ 2 * k + 1 ↔ 2 ≤ 2 * k := by omega
    simp [turns, clockStep, idle8, delay8, State.afterReset, h, h2, h3]
    omega
  · refine ⟨_, step_sequencer (turns_sequencer k).1 rfl, ?_⟩
    cases k with
    | zero => rfl
    | succ k =>
      simp [turns, sequencerStep]
      omega

/-- T8 of spec/95 2.1; and the second clause at `turns`. -/
theorem witness_DelayBlindSpotGoesOn :
    (let s := on .sequencer { delay8 with T := 0x10, dlyM := 0xFFFFFFFFFFFFFF00, dlyE := 0xFFFFFFFFFFFFFF10 }
     s.inputs = [.sequencer] ∧ s.inReset = false ∧ s.phase = .delay ∧ s.dlyWrap = false ∧
      s.cnt.toNat < s.dlyM.toNat ∧ s.dlyM.toNat ≤ s.dlyE.toNat) ∧
    Execution turns ∧ ClockFair turns ∧ NeverReset turns ∧ SamplesEveryMicrosecond turns ∧
      DelayRunning 1000 5 (turns 0) := by
  have hc : ∀ k, (nextInput (turns (2 * k))).1 = .clock 0 := fun k => by rw [nextInput_cons (turns_clock k).1]
  have hs : ∀ k, (nextInput (turns (2 * k + 1))).1 = .sequencer := fun k => by
    rw [nextInput_cons (turns_sequencer k).1]
  refine ⟨by decide, turns_execution, fun n => ⟨2 * n, by omega, ⟨0, hc n⟩, rfl⟩, (fun n h => by cases h.2),
    fun n h => ?_, ?_⟩
  · obtain ⟨k, rfl | rfl⟩ := Nat.even_or_odd' n
    · exact ⟨hc k, 2 * k + 1, by omega, ⟨hs k, rfl⟩, by rw [(turns_clock k).2, (turns_sequencer k).2]⟩
    · obtain ⟨⟨more, h⟩, -⟩ := h
      rw [hs k] at h
      cases h
  · constructor <;> decide
/-- A running delay before the wrap it waits for, after it, at its end, and a wake hold whose time is over. -/
theorem witness_DelaysLastAtLeastTheirTime :
    let w := { delay8 with cntInit := 0xFFFFFFFFFFFFFFF0, T := 0, dlyM := 0xFFFFFFFFFFFFFFF0, dlyE := 0x18 }
    DelayRunning 0 40 { w with dlyWrap := true } ∧ DelayRunning 0 40 { w with T := 16 } ∧
      DelayRunning 1000 5 delay8 ∧ DelayRunning 0 10000 wake8 ∧ (∃ t, step (on .sequencer wake8) = .next t) ∧
      (∃ t, exec .delayUs idle8 = .next t) ∧ (∃ t, exec .delayMs idle8 = .next t) ∧
      ∃ t, exec (.read 4) idle8 = .next t := by
  refine ⟨?_, ?_, ?_, ?_, ⟨_, rfl⟩, ⟨_, rfl⟩, ⟨_, rfl⟩, ⟨_, rfl⟩⟩ <;> constructor <;> decide
theorem witness_OnlyCompletionOrResetEndsAnOperation :
    BlockInv (on .sequencer delay8) ∧ delay8.busy = true ∧ ∃ t, step (on .sequencer delay8) = .next t ∧ t.busy = false :=
  ⟨on_inv _ delay8_inv, rfl, _, rfl, by decide⟩
theorem witness_WakeReleasesThePinAfterTheHold :
    (on .sequencer wake8).inputs = [.sequencer] ∧ wake8.inReset = false ∧ wake8.phase = .wake ∧
      wake8.pinCur.toNat < wake8.numPins ∧ DelayOver wake8 ∧ ¬ DelayOver { wake8 with T := 9999 } := by
  unfold DelayOver; decide
theorem witness_SettleStartsTheAcknowledgeWait :
    (on .sequencer settle8).inputs = [.sequencer] ∧ settle8.inReset = false ∧ settle8.phase = .settle ∧
      DelayOver settle8 ∧ ¬ DelayOver { settle8 with T := 10039 } := by
  unfold DelayOver; decide
theorem witness_ExhaustedWaitTimesOut :
    let s := on .sequencer { wait8 .dataHigh 39 with tcnt := 0 }
    s.inputs = [.sequencer] ∧ s.inReset = false ∧ isSampling s.phase = true ∧ s.tcnt = 0 ∧ BlockInv s := by
  refine ⟨rfl, rfl, rfl, rfl, ?_⟩
  constructor <;> decide
/-- With a listed answer, and with none, at the last sample of the budget. -/
theorem witness_WaitingSampleDecrementsTheCounter :
    let s := on .sequencer { wait8 .ackLow 0 with tcnt := 1, lineIn := [true] }
    s.inputs = [.sequencer] ∧ s.inReset = false ∧ isSampling s.phase = true ∧ s.tcnt ≠ 0 ∧
      s.lineIn = s.waitLvl :: [] ∧ (wait8 .ackLow 0).lineIn = [] := by decide
theorem witness_ExitSampleStartsTheNextWait :
    let s := fun ph l => on .sequencer { wait8 ph 0 with lineIn := [l] }
    (s .ackLow false).inputs = [.sequencer] ∧ (s .ackLow false).inReset = false ∧ (s .ackLow false).tcnt ≠ 0 ∧
      (s .ackLow false).lineIn = (!(s .ackLow false).waitLvl) :: [] ∧
      (s .ackHigh true).lineIn = (!(s .ackHigh true).waitLvl) :: [] ∧
      (s .dataLow true).lineIn = (!(s .dataLow true).waitLvl) :: [] := by decide
/-- At the first and the last bit the statement is about. -/
theorem witness_DataBitIsDecidedAndPacked :
    let s := fun i => on .sequencer { wait8 .dataHigh i with lineIn := [false] }
    (s 0).inputs = [.sequencer] ∧ (s 0).inReset = false ∧ (s 0).tcnt ≠ 0 ∧
      (s 38).lineIn = (!(s 38).waitLvl) :: [] ∧ (s 38).phase = .dataHigh ∧ (s 38).bitidx.toNat < 39 ∧
      frameBit (s 38).frame 38 = false := by decide
theorem witness_LastBitCompletesTheRead :
    let s := on .sequencer { wait8 .dataHigh 39 with lineIn := [false] }
    s.inputs = [.sequencer] ∧ s.inReset = false ∧ s.tcnt ≠ 0 ∧ s.lineIn = (!s.waitLvl) :: [] ∧
      s.phase = .dataHigh ∧ s.bitidx = 39 := by decide
theorem witness_ACompleteReadHas82Waits :
    let s := on .sequencer (wait8 .dataHigh 39)
    BlockInv s ∧ SequencerSteps s ∧ isSampling s.phase = true ∧ waitsStarted s = 82 ∧ ∃ t, step s = .next t :=
  ⟨on_inv _ dataHigh8_inv, ⟨rfl, rfl⟩, rfl, rfl, _, rfl⟩
/-- Its clauses: the SETTLE exit, another agent's step, a Sequencer step at the last sample of the last wait, and a
sampling state. -/
theorem witness_SamplingIsBoundedBy82Budgets :
    (BlockInv (on .sequencer settle8) ∧ settle8.phase = .settle ∧
      ∃ t, step (on .sequencer settle8) = .next t ∧ isSampling t.phase = true) ∧
    (BlockInv (on (.clock 0) (wait8 .ackLow 0)) ∧ isSampling (wait8 .ackLow 0).phase = true ∧
      (nextInput (on (.clock 0) (wait8 .ackLow 0))).1 ≠ .sequencer ∧ ¬ ReleasesReset (on (.clock 0) (wait8 .ackLow 0)) ∧
      ∃ t, step (on (.clock 0) (wait8 .ackLow 0)) = .next t) ∧
    (let s := { on .sequencer (wait8 .dataHigh 39) with tcnt := 0 }
     BlockInv s ∧ SequencerSteps s ∧ isSampling s.phase = true ∧ ∃ t, step s = .next t) ∧
    BlockInv (wait8 .ackLow 0) := by
  refine ⟨⟨on_inv _ settle8_inv, rfl, _, rfl, by decide⟩,
   ⟨on_inv _ ackLow8_inv, rfl, by decide, (by intro h; cases h.2), _, rfl⟩, ⟨?_, ⟨rfl, rfl⟩, rfl, _, rfl⟩, ackLow8_inv⟩
  constructor <;> decide

/-- A block that a timeout in bit 7 of an earlier READ has left behind. -/
def failed8 : State :=
  { idle8 with done := true, result := .timeoutError, cause := .dataHigh, bitidx := 7, pinCur := 2, t0 := 99 }

theorem failed8_inv : BlockInv failed8 := by constructor <;> decide

/-- Both clauses: READ 4 after a failed READ and after none; and a sampling step of two blocks that differ in what
the READ does not read. -/
theorem witness_NoResidualStateAffectsARead :
    (BlockInv idle8 ∧ BlockInv failed8 ∧ idle8.busy = false ∧ failed8.busy = false ∧ idle8.inReset = false ∧
      failed8.inReset = false ∧ (4 : BitVec 8).toNat < idle8.numPins ∧ (4 : BitVec 8).toNat < failed8.numPins ∧
      idle8.cnt = failed8.cnt ∧ idle8.cfgWakeMs = failed8.cfgWakeMs ∧ idle8.cfgSettleUs = failed8.cfgSettleUs ∧
      idle8.cfgThreshUs = failed8.cfgThreshUs ∧ idle8.cfgTimeout = failed8.cfgTimeout ∧
      idle8.critEn = failed8.critEn ∧ (∃ t, exec (.read 4) idle8 = .next t) ∧ ∃ t, exec (.read 4) failed8 = .next t) ∧
    (let a := { on .sequencer (wait8 .ackLow 0) with lineIn := [false] }
     let b := { a with t0 := 99, level := true, result := .timeoutError, cause := .dataHigh, arg := 1 }
     SameRead a b ∧ readRunning a.phase = true ∧ a.inputs = [.sequencer] ∧ b.inputs = [.sequencer] ∧
      a.lineIn = [false] ∧ b.lineIn = [false] ∧ (∀ r, Input.sequencer ≠ .resetLine r) ∧
      (∃ t, step a = .next t) ∧ ∃ t, step b = .next t) := by
  refine ⟨⟨idle8_inv, failed8_inv, rfl, rfl, rfl, rfl, by decide, by decide, rfl, rfl, rfl, rfl, rfl, rfl,
    ⟨_, rfl⟩, ⟨_, rfl⟩⟩, ?_, rfl, rfl, rfl, rfl, rfl, (by intro r h; cases h), ⟨_, rfl⟩, ⟨_, rfl⟩⟩
  constructor <;> decide
theorem witness_SequencerLeavesTheRestAlone :
    SequencerSteps (on .sequencer wake8) ∧ ∃ t, step (on .sequencer wake8) = .next t := ⟨⟨rfl, rfl⟩, _, rfl⟩
/-- Both verdicts of the second clause. -/
theorem witness_ChecksumLaw :
    (∃ s : State, s.frame.b4.toNat =
      (s.frame.b0.toNat + s.frame.b1.toNat + s.frame.b2.toNat + s.frame.b3.toNat) % 256) ∧
    ∃ s : State, s.frame.b4.toNat ≠
      (s.frame.b0.toNat + s.frame.b1.toNat + s.frame.b2.toNat + s.frame.b3.toNat) % 256 :=
  ⟨⟨{ idle8 with frame := ⟨0xFF, 0xFF, 0xFF, 0xFF, 0xFC⟩ }, by decide⟩,
   ⟨{ idle8 with frame := ⟨0x02, 0x8C, 0x00, 0xEB, 0x65⟩ }, by decide⟩⟩
theorem witness_OnlyReadCompletionWritesTheResult :
    let s := on .sequencer { wait8 .dataHigh 39 with lineIn := [false] }
    BlockInv s ∧ ∃ t, step s = .next t ∧ t.result ≠ s.result :=
  ⟨{ dataHigh8_inv with }, _, rfl, by decide⟩
/-- A bus error of each kind: reset asserted, width, alignment, unmapped, and a write at both ends of the read-only
range. -/
theorem witness_BusErrorsHaveNoOtherEffect :
    IsBusError { idle8 with inReset := true } ⟨0x00, .word, .read⟩ ∧ IsBusError idle8 ⟨0x08, .byte, .read⟩ ∧
      IsBusError idle8 ⟨0x0A, .word, .read⟩ ∧ IsBusError idle8 ⟨0x38, .word, .read⟩ ∧
      IsBusError idle8 ⟨0x0C, .word, .write 0⟩ ∧ IsBusError idle8 ⟨0x20, .word, .write 0⟩ ∧
      ¬ IsBusError idle8 ⟨0x34, .word, .write 0⟩ ∧
      (on (.bus ⟨0x3C, .word, .read⟩) idle8).inputs = [.bus ⟨0x3C, .word, .read⟩] := by
  refine ⟨.inl rfl, .inr (.inl (by decide)), .inr (.inr (.inl (by decide))), .inr (.inr (.inr (.inl (by decide)))),
    .inr (.inr (.inr (.inr ⟨⟨0, rfl⟩, by decide, by decide⟩))),
    .inr (.inr (.inr (.inr ⟨⟨0, rfl⟩, by decide, by decide⟩))), ?_, rfl⟩
  rintro (h | h | h | h | ⟨-, -, h⟩) <;> revert h <;> decide
/-- Both clauses: another register or an idle block, and a frame register of a busy one. -/
theorem witness_ReadsHaveNoSideEffects :
    (on (reads .cfgCtrl) delay8).inputs = [reads .cfgCtrl] ∧ delay8.inReset = false ∧ isFrameReg .cfgCtrl = false ∧
      idle8.busy = false ∧ delay8.busy = true ∧ isFrameReg .frameHi = true := by decide
theorem witness_StatusWriteClearsOnlyStickyBits :
    (on (.bus ⟨0x08, .word, .write 0x00000600⟩) delay8).inputs = [.bus ⟨0x08, .word, .write 0x00000600⟩] ∧
      delay8.inReset = false ∧ ∃ t, step (on .sequencer { delay8 with ovr := true, ill := true }) = .next t :=
  ⟨rfl, rfl, _, rfl⟩
theorem witness_ConfigurationWritesStoreTheirValue :
    idle8.inReset = false ∧ idle8.busy = false ∧
      (∀ off ∈ [0x04, 0x24, 0x28, 0x2C, 0x30, 0x34], (on (.bus ⟨off, .word, .write 0xFFFFFFFF⟩) idle8).inputs =
        [.bus ⟨off, .word, .write 0xFFFFFFFF⟩]) := by decide
/-- The clauses in turn: a bus error; an overrun; an illegal command; a legal one; a read, a STATUS write and a
write of an idle block's configuration, none of which is a bus error. -/
theorem witness_OneAccessRaisesAtMostOneFault :
    IsBusError delay8 ⟨0x00, .half, .write 0⟩ ∧
      (¬ IsBusError delay8 ⟨0x00, .word, .write 0⟩ ∧ delay8.busy = true) ∧
      (¬ IsBusError idle8 ⟨0x00, .word, .write 0⟩ ∧ idle8.busy = false ∧
        decode idle8.numPins 0 = .error .unknownOp ∧ decode idle8.numPins 1 = .ok .now) ∧
      ¬ IsBusError delay8 ⟨0x34, .word, .read⟩ ∧ ¬ IsBusError delay8 ⟨0x08, .word, .write 0⟩ ∧
      ¬ IsBusError idle8 ⟨0x34, .word, .write 0⟩ ∧
      (on (cmd 0) delay8).inputs = [cmd 0] ∧ ∃ t, step (on (cmd 0) delay8) = .next t := by
  refine ⟨.inr (.inl (by decide)), ⟨?_, rfl⟩, ⟨?_, rfl, by decide, by decide⟩, ?_, ?_, ?_, rfl, ⟨_, rfl⟩⟩ <;>
    rintro (h | h | h | h | ⟨-, h, h'⟩) <;> revert h <;> (try revert h') <;> decide
theorem witness_RaisingAFaultAddsItToTheSet : idle8.faults.Nodup := by decide
/-- A READ command to an idle block, and a FRAME_LO read while a delay runs. -/
theorem witness_DutifulHostRaisesNoFault :
    KeepsDuty idle8 ⟨0x00, .word, .write 0x00000708⟩ ∧ KeepsDuty delay8 ⟨0x0C, .word, .read⟩ ∧
      (on (cmd 0x00000708) idle8).inputs = [cmd 0x00000708] ∧ ∃ t, step (on (cmd 0x00000708) idle8) = .next t :=
  ⟨⟨.cmd, by decide, by decide, by decide, fun w _ h => ⟨.read 7, by cases h; decide⟩⟩,
   ⟨.frameLo, by decide, by decide, by decide, fun w h _ => by cases h⟩, rfl, _, rfl⟩
/-- The clauses in turn. The second: a DELAY_US 0 that the Sequencer's first step ends, then the POLL's read, the
program's last statement. -/
theorem witness_PollWaitsForIdle :
    (delay8.inReset = false ∧ "lo" ≠ "status") ∧
      (∃ env s t env', RunsTo (fun _ => True) (⟨[.write .cmd (encode .delayUs), .poll], []⟩, idle8) (⟨[.poll], env⟩, s) ∧
        s.inReset = false ∧ hostTurn ⟨[.poll], env⟩ s = .next (⟨[], env'⟩, t)) ∧
      (isFrameReg .timeHi = false ∧ "hi" ≠ "lo") ∧ idle8.inReset = false ∧ idle8.busy = false :=
  ⟨by decide, ⟨_, _, _, _, .other .sequencer (.host (.start trivial) (by decide) rfl trivial) (fun _ h => by cases h)
    rfl trivial, rfl, rfl⟩, by decide, rfl, rfl⟩
theorem witness_EveryStepKeepsTheInvariant :
    BlockInv (on .sequencer (wait8 .dataHigh 39)) ∧ ∃ t, step (on .sequencer (wait8 .dataHigh 39)) = .next t :=
  ⟨on_inv _ dataHigh8_inv, _, rfl⟩
theorem witness_FaultsAreNeverForgotten : ∃ t, step (on (cmd 0) delay8) = .next t ∧ t.faults ≠ [] :=
  ⟨_, rfl, by decide⟩
theorem witness_SnapshotsChangeOnlyByTheirCommand :
    ∃ t, step (on (cmd 1) { idle8 with T := 5 }) = .next t ∧ t.time ≠ idle8.time := ⟨_, rfl, by decide⟩
theorem witness_ConfigurationChangesOnlyByHostWrites :
    ∃ t, step (on (.bus ⟨0x24, .word, .write 18⟩) idle8) = .next t ∧ t.cfgWakeMs = 18 := ⟨_, rfl, by decide⟩
theorem witness_PinsChangeOnlyByCommandsAndTheSequencer :
    ∃ t, step (on .sequencer wake8) = .next t ∧ t.pin 4 ≠ wake8.pin 4 := ⟨_, rfl, by decide⟩
/-- The clauses in turn: an immediate and a long command are accepted; BUSY rises, DONE falls, BUSY falls; DONE rises at
an immediate command's accept and at a delay's end. -/
theorem witness_BusyRisesOnlyForTheLongCommands :
    (Accepts (on (cmd 1) idle8) .now ∧ ∃ t, step (on (cmd 1) idle8) = .next t ∧ t.busy = false ∧ t.done = true) ∧
    (Accepts (on (cmd 0x00000708) idle8) (.read 7) ∧
      ∃ t, step (on (cmd 0x00000708) idle8) = .next t ∧ t.busy = true ∧ t.done = false) ∧
    (∃ t, step (on (cmd 2) failed8) = .next t ∧ failed8.busy = false ∧ t.busy = true ∧ failed8.done = true ∧
      t.done = false) ∧
    (BlockInv (on (cmd 1) idle8) ∧ idle8.done = false) ∧
    (BlockInv (on .sequencer delay8) ∧ ∃ t, step (on .sequencer delay8) = .next t ∧ delay8.busy = true ∧
      t.busy = false ∧ delay8.done = false ∧ t.done = true) :=
  ⟨⟨⟨1, rfl, rfl, rfl, by decide⟩, _, rfl, by decide⟩,
   ⟨⟨0x00000708, rfl, rfl, rfl, by decide⟩, _, rfl, by decide⟩, ⟨_, rfl, by decide⟩,
   ⟨on_inv _ idle8_inv, rfl⟩, on_inv _ delay8_inv, _, rfl, by decide⟩
/-- The clauses in turn: a READ accept after a failed READ; the exit sample of the last bit. -/
theorem witness_BitidxCountsCompletedBits :
    (Accepts (on (cmd 0x00000708) failed8) (.read 7) ∧
      ∃ t, step (on (cmd 0x00000708) failed8) = .next t ∧ failed8.bitidx = 7 ∧ t.bitidx = 0) ∧
    (let s := on .sequencer { wait8 .dataHigh 39 with lineIn := [false] }
     SequencerSteps s ∧ s.phase = .dataHigh ∧ s.tcnt ≠ 0 ∧ (readLine s.pinCur (nextInput s).2).1 ≠ s.waitLvl ∧
      ∃ t, step s = .next t ∧ t.bitidx = 40) :=
  ⟨⟨⟨0x00000708, rfl, rfl, rfl, by decide⟩, _, rfl, by decide⟩, ⟨rfl, rfl⟩, rfl, by decide, by decide, _, rfl, by decide⟩
theorem witness_ReadResultsStayUntilTheNextRead :
    BlockInv (on .sequencer delay8) ∧ readRunning delay8.phase = false ∧ ∃ t, step (on .sequencer delay8) = .next t :=
  ⟨on_inv _ delay8_inv, rfl, _, rfl⟩
/-- The clauses in turn. -/
theorem witness_ResetInputStopsEveryAgent :
    (on (.resetLine true) delay8).inputs = [.resetLine true] ∧
      (let s := { delay8 with inReset := true }
       s.inReset = true ∧ (on .sequencer s).inputs = [.sequencer] ∧ (on (.clock 0) s).inputs = [.clock 0] ∧
        (on (reads .status) s).inputs = [reads .status] ∧ (on (.resetLine false) s).inputs = [.resetLine false]) := by
  decide
/-- A finite format that meets the tolerance with the default offsets: hundredths in 32 bits, two's complement. -/
def hundredths : FloatFormat (BitVec 32) where
  toRat x := (x.toInt : Rat) / 100
  convH raw off := BitVec.ofInt 32 (10 * raw) + off
  convT neg mag off := BitVec.ofInt 32 (if neg then -(10 * mag) else 10 * mag) + off
  sentinel := 0x80000000
  zero := 0
  toRat_zero := by simp

theorem toInt_small {n : Int} (h : -2 ^ 31 ≤ n) (h' : n < 2 ^ 31) : (BitVec.ofInt 32 n).toInt = n := by
  rw [BitVec.toInt_ofInt]
  exact Int.bmod_eq_of_le (by omega) (by omega)

/-- The format and frames on both sides of the sign. -/
theorem witness_ReadingIsConvertedFromTheFrame :
    WithinTolerance hundredths (defaultCalibration hundredths) ∧ Result.ok ≠ .timeoutError ∧
      (0x7F : Byte).toNat < 128 ∧ 128 ≤ (0x80 : Byte).toNat := by
  refine ⟨⟨fun raw h => ?_, fun neg mag h => ?_⟩, by decide, by decide, by decide⟩
  · have e : (BitVec.ofInt 32 (10 * raw)).toInt = 10 * raw := toInt_small (by omega) (by omega)
    simp [hundredths, defaultCalibration, exactHumidity, e]
    ring_nf; norm_num
  · have e : (BitVec.ofInt 32 (10 * mag)).toInt = 10 * mag := toInt_small (by omega) (by omega)
    have e' : (BitVec.ofInt 32 (-(10 * mag))).toInt = -(10 * mag) := toInt_small (by omega) (by omega)
    cases neg <;> simp [hundredths, defaultCalibration, exactTemperature, e, e'] <;> ring_nf <;> norm_num

end Sys2Proof.Tests
end

section
/-! PROOF. What `raiseFault` does to the set FAULTS (R10, R35, R118). -/

namespace Sys2Proof.Machine

variable (f : Fault) (s : State)

theorem raiseFault_eq_faults_update : raiseFault f s = { s with faults := (raiseFault f s).faults } := rfl

/-- Both branches of `raiseFault` give the same set: a fault that is there already is not appended again. -/
theorem mem_raiseFault_faults (g : Fault) : g ∈ (raiseFault f s).faults ↔ g = f ∨ g ∈ s.faults := by
  rw [raiseFault_faults]
  split
  case isTrue hf => exact ⟨.inr, fun h => h.elim (· ▸ hf) id⟩
  case isFalse => simp [or_comm]

variable {s} in
/-- The test for `f ∈ s.faults` is what keeps the list free of repeats. -/
theorem nodup_raiseFault_faults (hs : s.faults.Nodup) : (raiseFault f s).faults.Nodup := by
  rw [raiseFault_faults]
  split
  case isTrue => exact hs
  case isFalse hf => exact List.nodup_append_comm.mpr (List.nodup_cons.mpr ⟨hf, hs⟩)

/-- Settles O46, by the two branches of `raiseFault`: the fault is in FAULTS already, or it is appended. -/
theorem raisingAFaultAddsItToTheSet : Obligations.RaisingAFaultAddsItToTheSet := fun f s =>
  ⟨raiseFault_eq_faults_update f s, mem_raiseFault_faults f s, nodup_raiseFault_faults f⟩

end Sys2Proof.Machine
end

section
/-! PROOF. What a step does, said once: a write as its register's write rule; an accept step, a Sequencer step and any
step as one of a few effects with names, and the frames of the first two. -/

namespace Sys2Proof.Machine

/-! ### A bus write as its register's write rule (R45, R61) -/

theorem step_write {s : State} {r : Reg} {v : Word} (h : (nextInput s).1 = .bus ⟨regOffset r, .word, .write v⟩)
    (hr : s.inReset = false) (hro : isReadOnly r = false) (hg : (s.busy && isGuarded r) = false) :
    step s = registerWrite r v { (nextInput s).2 with response := .written } := by
  have hr' : (nextInput s).2.inReset = false := by rw [nextInput_snd]; exact hr
  have hg' : ((nextInput s).2.busy && isGuarded r) = false := by rw [nextInput_snd]; exact hg
  rw [step, h, inputStep, busAccess, admit_regOffset r _ hr' (.inr hro)]
  simp [busWrite, hg']

/-- `step_write` for an input that is listed. -/
theorem step_write_listed {s : State} {rest : List Input} (r : Reg) (v : Word)
    (h : s.inputs = .bus ⟨regOffset r, .word, .write v⟩ :: rest) (hr : s.inReset = false)
    (hro : isReadOnly r = false) (hg : (s.busy && isGuarded r) = false) :
    step s = registerWrite r v { s with inputs := rest, response := .written } := by
  have hn := nextInput_cons h
  rw [step_write (by rw [hn]) hr hro hg, hn]

theorem commandWrite_legal {s : State} {w : Word} {i : Instr} (h : decode s.numPins w = .ok i) :
    commandWrite w s = exec i s := by
  rw [commandWrite, h]

/-- The accept step of a command is its arm of `exec`. -/
theorem step_of_accepts {s : State} {i : Instr} (h : Accepts s i) :
    step s = exec i { (nextInput s).2 with response := .written } := by
  obtain ⟨w, hw, hr, hb, hd⟩ := h
  rw [step_write (r := .cmd) hw hr rfl (by simp [hb]), registerWrite, commandWrite_legal]
  rw [nextInput_snd]
  exact hd

theorem step_of_sequencerSteps {s : State} (h : SequencerSteps s) :
    step s = .next (sequencerStep (nextInput s).2) := by
  have hr : (nextInput s).2.inReset = false := by rw [nextInput_snd]; exact h.2
  rw [step, h.1, inputStep, hr]
  rfl

theorem step_of_clock {s : State} {k : Nat} (h : (nextInput s).1 = .clock k) (hr : s.inReset = false) :
    step s = .next (clockStep k (nextInput s).2) := by
  have hr' : (nextInput s).2.inReset = false := by rw [nextInput_snd]; exact hr
  rw [step, h, inputStep, hr']
  rfl

theorem decodePinless_ok {i j : Instr} {p : BitVec 8} {l : Level} (h : decodePinless i p l = .ok j) : i = j := by
  unfold decodePinless at h
  split at h
  · cases h
  · split at h <;> cases h; rfl

theorem decodeOnPin_ok {n : Nat} {i j : Instr} {p : BitVec 8} (h : decodeOnPin n i p = .ok j) :
    i = j ∧ pinExists n p = true := by
  unfold decodeOnPin at h
  split at h <;> cases h
  exact ⟨rfl, ‹_›⟩

theorem decodeOnPinLow_ok {n : Nat} {i j : Instr} {p : BitVec 8} {l : Level} (h : decodeOnPinLow n i p l = .ok j) :
    i = j ∧ pinExists n p = true := by
  unfold decodeOnPinLow at h
  split at h
  · cases h
  · exact decodeOnPin_ok h

/-- The decoder answers only commands the block has (R58). -/
theorem decode_wellFormed {n : Nat} {w : Word} {i : Instr} (h : decode n w = .ok i) : i.wellFormed n = true := by
  unfold decode at h
  split at h
  · cases h
  · split at h
    case h_1 | h_2 | h_3 => obtain rfl := decodePinless_ok h; rfl
    case h_4 | h_5 | h_7 | h_8 => obtain ⟨rfl, hp⟩ := decodeOnPinLow_ok h; exact hp
    case h_6 => obtain ⟨rfl, hp⟩ := decodeOnPin_ok h; exact hp
    case h_9 => cases h

/-! ### Accept steps and Sequencer steps with named effects -/

/-- The state READ's accept step leaves (R87). -/
def readAccepted (p : BitVec 8) (s : State) : State :=
  { s with
    kWake := s.cfgWakeMs, kSettle := s.cfgSettleUs, kThresh := s.cfgThreshUs, kTimeout := s.cfgTimeout,
    kCrit := s.critEn, pinCur := p, frame := Frame.zero, csumCalc := 0, last := s.cnt, bitidx := 0,
    done := false, busy := true, phase := .wake,
    pins := (s.pins.modify p.toNat makeOutput).modify p.toNat (setLatch false),
    dlyM := s.cnt, dlyE := s.cnt + milliseconds s.cfgWakeMs,
    dlyWrap := (s.cnt + milliseconds s.cfgWakeMs).ult s.cnt }

theorem execRead_readAccepted (p : BitVec 8) (s : State) : execRead p s = .next (readAccepted p s) := execRead_eq p s

/-- What a command's accept step in `s` can leave: `exec_cases` with a name for each case. -/
inductive AcceptEffect (s : State) : Instr → State → Prop where
  | now : AcceptEffect s .now (completeAtAccept { s with time := s.cnt })
  | delayUs : AcceptEffect s .delayUs (delayStart (microseconds s.arg) (beginOperation .delay s))
  | delayMs : AcceptEffect s .delayMs (delayStart (milliseconds s.arg) (beginOperation .delay s))
  | setOutput (p) : AcceptEffect s (.setOutput p) (completeAtAccept (modifyPin p makeOutput s))
  | setInput (p) : AcceptEffect s (.setInput p) (completeAtAccept (modifyPin p makeInput s))
  | writeLevel (p l) : AcceptEffect s (.writeLevel p l) (completeAtAccept (modifyPin p (setLatch l) s))
  | readLevel (p l ls d) : AcceptEffect s (.readLevel p) { s with level := l, lineIn := ls, draws := d, done := true }
  | read (p) : AcceptEffect s (.read p) (readAccepted p s)

theorem exec_effect {i : Instr} {s t : State} (h : exec i s = .next t) : AcceptEffect s i t := by
  obtain ⟨rfl, rfl⟩ | ⟨rfl, rfl⟩ | ⟨rfl, rfl⟩ | ⟨p, rfl, rfl⟩ | ⟨p, rfl, rfl⟩ | ⟨p, l, rfl, rfl⟩ |
    ⟨p, l, ls, d, rfl, rfl⟩ | ⟨p, rfl, he⟩ := exec_cases h
  · exact .now
  · exact .delayUs
  · exact .delayMs
  · exact .setOutput p
  · exact .setInput p
  · exact .writeLevel p l
  · exact .readLevel p l ls d
  · rw [execRead_readAccepted] at he
    cases he
    exact .read p

/-- What a command's accept step can change; each other field keeps its value. -/
theorem exec_frame {i : Instr} {s t : State} (h : exec i s = .next t) : t = { s with
    busy := t.busy, done := t.done, level := t.level, bitidx := t.bitidx, phase := t.phase, frame := t.frame,
    csumCalc := t.csumCalc, time := t.time, last := t.last, pins := t.pins, pinCur := t.pinCur, dlyM := t.dlyM,
    dlyE := t.dlyE, dlyWrap := t.dlyWrap, kWake := t.kWake, kSettle := t.kSettle, kThresh := t.kThresh,
    kTimeout := t.kTimeout, kCrit := t.kCrit, lineIn := t.lineIn, draws := t.draws } := by
  cases exec_effect h <;> rfl

/-- The state the end of the wake hold leaves (R88). -/
def wakeReleased (s : State) : State :=
  { s with
    pins := (s.pins.modify s.pinCur.toNat (setLatch true)).modify s.pinCur.toNat makeInput, phase := .settle,
    dlyM := s.cnt, dlyE := s.cnt + microseconds s.kSettle,
    dlyWrap := (s.cnt + microseconds s.kSettle).ult s.cnt }

/-- The state in which the exit sample of DATA_HIGH has packed and counted its bit (R95). -/
def bitReceived (s : State) : State :=
  { s with
    frame := packBit s.frame s.bitidx.toNat (decideBit (elapsed s.t0 s.cnt) s.kThresh), bitidx := s.bitidx + 1 }

/-- A sample of the line uses up an answer or a draw, and nothing else (R91). -/
def sampled (ls : List Level) (d : Nat) (s : State) : State := { s with lineIn := ls, draws := d }

/-- What a Sequencer step in `s` can leave: `sequencerStep_cases` and `sampling_cases` with a name for each case. -/
inductive SequencerEffect (s : State) : State → Prop where
  | idle : s.phase = .idle → SequencerEffect s s
  | poll (w) : SequencerEffect s { s with dlyWrap := w }
  | delayEnd : s.phase = .delay → SequencerEffect s (complete { s with dlyWrap := false })
  | wakeEnd : s.phase = .wake → SequencerEffect s (wakeReleased s)
  | settleEnd : s.phase = .settle →
      SequencerEffect s (startWait .ackLow true { s with dlyWrap := false, crit := s.crit || s.kCrit })
  | timeout : isSampling s.phase = true → s.tcnt = 0 → SequencerEffect s (timeout (timeoutCause s.phase) s)
  | waiting (ls d) : isSampling s.phase = true → s.tcnt ≠ 0 →
      SequencerEffect s { sampled ls d s with tcnt := s.tcnt - 1 }
  | exitAckLow (ls d) : s.phase = .ackLow → SequencerEffect s (exitAckLow (sampled ls d s))
  | exitAckHigh (ls d) : s.phase = .ackHigh → SequencerEffect s (exitAckHigh (sampled ls d s))
  | exitDataLow (ls d) : s.phase = .dataLow → SequencerEffect s (exitDataLow s.cnt (sampled ls d s))
  | nextBit (ls d) : s.phase = .dataHigh → s.bitidx.toNat < 39 →
      SequencerEffect s (startWait .dataLow false (bitReceived (sampled ls d s)))
  | lastBit (ls d) : s.phase = .dataHigh → 39 ≤ s.bitidx.toNat →
      SequencerEffect s (finish (bitReceived (sampled ls d s)))

theorem sequencer_effect {s t : State} (ht : t = sequencerStep s) : SequencerEffect s t := by
  obtain ⟨hp, e⟩ | ⟨-, -, e⟩ | ⟨hp, -, e⟩ | ⟨hp, -, e⟩ | ⟨hp, -, e⟩ | hp := sequencerStep_cases s
  · rw [ht, e]; exact .idle hp
  · rw [ht, e]; exact .poll _
  · rw [ht, e]; exact .delayEnd hp
  · rw [ht, e]; exact .wakeEnd hp
  · rw [ht, e]; exact .settleEnd hp
  · obtain ⟨h0, e⟩ | ⟨h0, ls, d, e | ⟨hq, e⟩ | ⟨hq, e⟩ | ⟨hq, e⟩ | ⟨hq, hb, e⟩ | ⟨hq, hb, e⟩⟩ :=
      sampling_cases hp <;> rw [ht, e]
    · exact .timeout hp h0
    · exact .waiting ls d hp h0
    · exact .exitAckLow ls d hq
    · exact .exitAckHigh ls d hq
    · exact .exitDataLow ls d hq
    · exact .nextBit ls d hq hb
    · exact .lastBit ls d hq hb

/-- What a Sequencer step can change; each other field keeps its value. -/
theorem sequencerStep_frame {s t : State} (ht : t = sequencerStep s) : t = { s with
    busy := t.busy, done := t.done, result := t.result, cause := t.cause, crit := t.crit, bitidx := t.bitidx,
    phase := t.phase, frame := t.frame, csumCalc := t.csumCalc, pins := t.pins, tcnt := t.tcnt,
    waitLvl := t.waitLvl, t0 := t.t0, dlyM := t.dlyM, dlyE := t.dlyE, dlyWrap := t.dlyWrap, lineIn := t.lineIn,
    draws := t.draws } := by
  cases sequencer_effect ht <;> rfl

/-! ### Every step as one of eight effects -/

/-- The fault marks STATUS.OVR (R119). -/
def Fault.marksOvr : Fault → Bool
  | .busError _ _ _ => false
  | .illegalCommand _ => false
  | .overrun _ _ => true

/-- The fault marks STATUS.ILL (R120). -/
def Fault.marksIll : Fault → Bool
  | .busError _ _ _ => false
  | .illegalCommand _ => true
  | .overrun _ _ => false

/-- An interface fault with its mark in STATUS: what `refuseAccess`, `overrun` and `illegalCommand` have in common. -/
def recordFault (f : Fault) (s : State) : State :=
  raiseFault f { s with ovr := f.marksOvr || s.ovr, ill := f.marksIll || s.ill }

/-- The write of `v` to a register of the configuration (ARG or CFG_*, R17, R31, R32); the others store no value. -/
def storeConfig (r : Reg) (v : Word) (s : State) : State :=
  match r with
  | .arg => { s with arg := v }
  | .cfgWakeMs => { s with cfgWakeMs := v }
  | .cfgSettleUs => { s with cfgSettleUs := v }
  | .cfgThreshUs => { s with cfgThreshUs := v }
  | .cfgTimeout => { s with cfgTimeout := v }
  | .cfgCtrl => { s with critEn := v.getLsbD 0 }
  | .cmd | .status | .frameLo | .frameHi | .timeLo | .timeHi | .lastLo | .lastHi => s

theorem storeConfig_frame {r : Reg} {v : Word} {s t : State} (ht : t = storeConfig r v s) : t = { s with
    arg := t.arg, cfgWakeMs := t.cfgWakeMs, cfgSettleUs := t.cfgSettleUs, cfgThreshUs := t.cfgThreshUs,
    cfgTimeout := t.cfgTimeout, critEn := t.critEn } := by
  subst ht; cases r <;> rfl

/-- Everything a step from `s` can do. `ins` and `d` are the inputs and the draws left, `r` is the bus's answer. -/
inductive StepEffect (s : State) : State → Prop where
  /-- A read, a change of the reset input that gives no reset, or an agent that has nothing to do. -/
  | quiet (ins d r b) : StepEffect s { s with inputs := ins, draws := d, response := r, inReset := b }
  /-- A bus error, an overrun or an illegal command. -/
  | fault (ins d r f) : StepEffect s (recordFault f { s with inputs := ins, draws := d, response := r })
  /-- A write to STATUS. -/
  | statusWrite (ins d r v) : (nextInput s).1 = .bus ⟨0x08, .word, .write v⟩ →
      StepEffect s (clearSticky v { s with inputs := ins, draws := d, response := r })
  /-- A write to ARG or CFG_*. -/
  | config (ins d r reg v) : WritesIdle s (regOffset reg) v →
      StepEffect s (storeConfig reg v { s with inputs := ins, draws := d, response := r })
  /-- The accept step of a command. -/
  | accept (ins d r i t) : Accepts s i →
      exec i { s with inputs := ins, draws := d, response := r } = .next t → StepEffect s t
  /-- A step of the Sequencer. -/
  | sequencer (ins d) : SequencerSteps s → StepEffect s (sequencerStep { s with inputs := ins, draws := d })
  /-- A step of the Clock. -/
  | clock (ins d k) : (nextInput s).1 = .clock k → s.inReset = false →
      StepEffect s (clockStep k { s with inputs := ins, draws := d })
  /-- The release of the reset input. -/
  | reset (ins d) : ReleasesReset s → StepEffect s (releaseReset { s with inputs := ins, draws := d })

theorem busRead_frame (r : Reg) (s : State) :
    busRead r s = { s with draws := (busRead r s).draws, response := (busRead r s).response } := by
  unfold busRead; split <;> rfl

/-- The effect of a step that is a Host access, by the cases of R122. -/
theorem stepEffect_of_bus {s t : State} {ins : List Input} {d : Nat} {a : BusAccess} (ha : (nextInput s).1 = .bus a)
    (h : busAccess a { s with inputs := ins, draws := d } = .next t) : StepEffect s t := by
  obtain ⟨-, rfl⟩ | ⟨r, hr, ⟨-, rfl⟩ | ⟨v, hv, ⟨-, -, rfl⟩ | ⟨rfl, rfl⟩ | ⟨hb, hW, hg⟩⟩⟩ := busAccess_cases h
  · exact .fault ins d .error (.busError (busAddress a) a.width (isWrite a.op))
  · rw [busRead_frame]
    exact .quiet ins _ _ s.inReset
  · exact .fault ins d .written (.overrun a.off v)
  all_goals
    obtain ⟨hres, hw, ho, -⟩ := admit_some hr
    obtain ⟨off, w, op⟩ := a
    subst hv hw ho
  · exact .statusWrite ins d .written v ha
  · obtain ⟨rfl, ⟨e, -, rfl⟩ | ⟨i, hd, he⟩⟩ | ⟨rfl, rfl⟩ | ⟨rfl, rfl⟩ | ⟨rfl, rfl⟩ | ⟨rfl, rfl⟩ | ⟨rfl, rfl⟩ |
      ⟨rfl, rfl⟩ := registerWrite_cases hW hg
    · exact .fault ins d .written (.illegalCommand v)
    · exact .accept ins d .written i t ⟨v, ha, hres, hb, hd⟩ he
    all_goals exact .config ins d .written _ v ⟨ha, hres, hb⟩

theorem step_effect {s t : State} (h : step s = .next t) : StepEffect s t := by
  obtain ⟨ins, d, u, rfl, ⟨a, ha, hb⟩ | ⟨hs, rfl⟩ | ⟨k, hk, hr, rfl⟩ | ⟨hr, rfl⟩ | rfl | rfl⟩ := step_cases h
  · exact stepEffect_of_bus ha hb
  · exact .sequencer ins d hs
  · exact .clock ins d k hk hr
  · exact .reset ins d hr
  · exact .quiet ins d s.response true
  · exact .quiet ins d s.response s.inReset

end Sys2Proof.Machine
end

section
/-! PROOF. Every step keeps `BlockInv`. The invariant says different things of a block at rest (IDLE or a delay) and of
one that runs a READ, so it is taken apart into `RestInv` and `ReadInv`, and each effect of a step moves within one of
them or from one to the other. -/

namespace Sys2Proof.Machine

/-! ### The invariant in two parts -/

/-- What `BlockInv` says in every phase alike. -/
structure LastingInv (s : State) : Prop where
  causeResult : s.cause ≠ .none ↔ s.result = .timeoutError
  faultSet : s.faults.Nodup
  ovrRecorded : s.ovr = true → ∃ off v, Fault.overrun off v ∈ s.faults
  illRecorded : s.ill = true → ∃ w, Fault.illegalCommand w ∈ s.faults

/-- What `BlockInv` says while no READ runs. -/
structure RestInv (s : State) : Prop extends LastingInv s where
  rest : s.phase = .idle ∧ s.busy = false ∨ s.phase = .delay ∧ s.busy = true ∧ s.done = false
  noCrit : s.crit = false
  bitidxBound : s.bitidx.toNat ≤ 40
  timeoutFrame : s.result = .timeoutError → s.frame = Frame.zero ∧ s.csumCalc = 0
  verdict : s.result ≠ .timeoutError →
    s.csumCalc = checksum8 s.frame.b0 s.frame.b1 s.frame.b2 s.frame.b3 ∧ s.result = validate s.csumCalc s.frame.b4

/-- What `BlockInv` says while a READ runs. -/
structure ReadInv (s : State) : Prop extends LastingInv s where
  reading : readRunning s.phase = true
  running : s.busy = true ∧ s.done = false
  critWindow : s.crit = (s.kCrit && isSampling s.phase)
  noBits : s.phase ≠ .dataLow → s.phase ≠ .dataHigh → s.bitidx = 0
  bitidxBound : s.bitidx.toNat < 40
  waiting : isSampling s.phase = true → s.waitLvl = waitLevel s.phase ∧ s.tcnt.toNat ≤ s.kTimeout.toNat
  readPin : s.pinCur.toNat < s.numPins
  wakePin : s.phase = .wake → s.pin s.pinCur = ⟨.output, false, false, true⟩
  inputPin : s.phase ≠ .wake → s.pin s.pinCur = ⟨.input, true, true, false⟩
  frameTail : s.csumCalc = 0 ∧ ∀ i, i < 40 → s.bitidx.toNat ≤ i → frameBit s.frame i = false

theorem readRunning_of_sampling {q : Phase} (h : isSampling q = true) : readRunning q = true := by
  revert h; cases q <;> decide

theorem RestInv.blockInv {s : State} (h : RestInv s) : BlockInv s := by
  rcases h.rest with ⟨hp, hb⟩ | ⟨hp, hb, hd⟩ <;> exact { h with
    busyPhase := by simp [hp, hb]
    doneIdle := by simp [*]
    critWindow := by simp [hp, isSampling, h.noCrit]
    timeoutFrame := fun _ => h.timeoutFrame
    verdict := fun _ => h.verdict
    bitidxStart := by simp [hp]
    bitidxData := by simp [hp]
    waiting := by simp [hp, isSampling]
    readPin := by simp [hp, readRunning]
    wakePin := by simp [hp]
    inputPin := by simp [hp, isSampling]
    frameTail := by simp [hp, readRunning] }

theorem ReadInv.blockInv {s : State} (h : ReadInv s) : BlockInv s :=
  have hq : ∀ q, readRunning q = false → s.phase ≠ q := fun q hq e => by simp [← e, h.reading] at hq
  { h with
    busyPhase := by simp [h.running, hq .idle rfl]
    doneIdle := fun _ => h.running.2
    timeoutFrame := by simp [h.reading]
    verdict := by simp [h.reading]
    bitidxBound := h.bitidxBound.le
    bitidxStart := fun hp => h.noBits (by rintro e; simp [e] at hp) (by rintro e; simp [e] at hp)
    bitidxData := fun _ => h.bitidxBound
    readPin := fun _ => h.readPin
    inputPin := fun hp => h.inputPin (by rintro e; simp [e, isSampling] at hp)
    frameTail := fun _ => h.frameTail }

theorem BlockInv.restInv {s : State} (h : BlockInv s) (hq : readRunning s.phase = false) : RestInv s := { h with
  rest := by
    cases hp : s.phase <;> simp only [hp, readRunning, reduceCtorEq] at hq
    · simpa [hp] using h.busyPhase
    · have hb : s.busy = true := h.busyPhase.2 (by simp [hp])
      exact .inr ⟨rfl, hb, h.doneIdle hb⟩
  noCrit := by
    rw [h.critWindow]
    cases hp : s.phase <;> simp_all [readRunning, isSampling]
  timeoutFrame := h.timeoutFrame hq
  verdict := h.verdict hq }

theorem BlockInv.readInv {s : State} (h : BlockInv s) (hq : readRunning s.phase = true) : ReadInv s := by
  have hb : s.busy = true := h.busyPhase.2 fun hp => by simp [hp, readRunning] at hq
  exact { h with
    reading := hq
    running := ⟨hb, h.doneIdle hb⟩
    noBits := fun h1 h2 => h.bitidxStart (by cases hp : s.phase <;> simp_all [readRunning])
    bitidxBound := by
      cases hp : s.phase <;> simp only [hp, readRunning, reduceCtorEq] at hq
      case dataLow | dataHigh => exact h.bitidxData (by simp [hp])
      all_goals simp [h.bitidxStart (by simp [hp])]
    readPin := h.readPin hq
    inputPin := fun h1 => h.inputPin (by cases hp : s.phase <;> simp_all [readRunning, isSampling])
    frameTail := h.frameTail hq }

/-! ### Effects that leave the running operation alone -/

theorem BlockInv.served {s : State} (h : BlockInv s) (ins d r) :
    BlockInv { s with inputs := ins, draws := d, response := r } := { h with }

/-- A fault is in FAULTS once it is raised, so its mark in STATUS is recorded there. -/
theorem BlockInv.recordFault {s : State} (h : BlockInv s) (f : Fault) : BlockInv (recordFault f s) := { h with
  faultSet := raiseFault_nodup f h.faultSet
  ovrRecorded := fun ho => by
    simp only [Machine.recordFault, mem_raiseFault]
    rcases Bool.or_eq_true_iff.1 ho with hf | hs
    · cases f <;> simp [Fault.marksOvr] at hf
      exact ⟨_, _, .inl rfl⟩
    · obtain ⟨off, v, hm⟩ := h.ovrRecorded hs
      exact ⟨off, v, .inr hm⟩
  illRecorded := fun ho => by
    simp only [Machine.recordFault, mem_raiseFault]
    rcases Bool.or_eq_true_iff.1 ho with hf | hs
    · cases f <;> simp [Fault.marksIll] at hf
      exact ⟨_, .inl rfl⟩
    · obtain ⟨w, hm⟩ := h.illRecorded hs
      exact ⟨w, .inr hm⟩ }

theorem BlockInv.clearSticky {s : State} (h : BlockInv s) (v : Word) : BlockInv (clearSticky v s) := { h with
  ovrRecorded := fun ho => h.ovrRecorded (Bool.and_eq_true_iff.1 ho).1
  illRecorded := fun ho => h.illRecorded (Bool.and_eq_true_iff.1 ho).1 }

theorem BlockInv.storeConfig {s : State} (h : BlockInv s) (r : Reg) (v : Word) : BlockInv (storeConfig r v s) := by
  rw [storeConfig_frame (r := r) (v := v) (s := s) rfl]
  exact { h with }

/-! ### The accept steps -/

/-- An idle block that completes a command at once: pins, snapshots and draws are free. -/
theorem RestInv.immediate {s : State} (h : RestInv s) (hb : s.busy = false) (pins t l ls d) :
    RestInv { s with pins := pins, time := t, level := l, lineIn := ls, draws := d, done := true } :=
  { h with rest := .inl (by simpa [hb] using h.rest) }

theorem RestInv.delay {s : State} (h : RestInv s) (x : DWord) : RestInv (delayStart x (beginOperation .delay s)) :=
  { h with rest := .inr ⟨rfl, rfl, rfl⟩ }

theorem frameBit_zero {i : Nat} (hi : i < 40) : frameBit Frame.zero i = false := by
  revert i; decide

/-- READ's accept step clears the frame and drives the pin low (R87). -/
theorem RestInv.readAccepted {s : State} {p : BitVec 8} (h : RestInv s) (hp : p.toNat < s.numPins) :
    ReadInv (readAccepted p s) := by
  obtain ⟨hn, -, hpin⟩ := read_pins (p := p) (s := s) (t := Machine.readAccepted p s) rfl
  exact { h with
    reading := rfl
    running := ⟨rfl, rfl⟩
    critWindow := by simp [Machine.readAccepted, isSampling, h.noCrit]
    noBits := fun _ _ => rfl
    bitidxBound := by simp [Machine.readAccepted]
    waiting := fun hs => by simp [Machine.readAccepted, isSampling] at hs
    readPin := hn ▸ hp
    wakePin := fun _ => hpin hp
    inputPin := fun hw => absurd rfl hw
    frameTail := ⟨rfl, fun i hi _ => frameBit_zero hi⟩ }

theorem BlockInv.exec {s t : State} {i : Instr} (h : BlockInv s) (hb : s.busy = false)
    (hi : i.wellFormed s.numPins = true) (ht : exec i s = .next t) : BlockInv t := by
  have hidle : s.phase = .idle := by simpa [hb] using h.busyPhase
  have hr : RestInv s := h.restInv (by rw [hidle]; rfl)
  cases exec_effect ht with
  | delayUs | delayMs => exact (hr.delay _).blockInv
  | read p => exact (hr.readAccepted (of_decide_eq_true hi)).blockInv
  | _ => exact (hr.immediate hb _ _ _ _ _).blockInv

/-! ### The Sequencer's steps -/

/-- The end of the wake hold switches the pin to input (R88). -/
theorem ReadInv.wakeReleased {s : State} (h : ReadInv s) (hp : s.phase = .wake) : ReadInv (wakeReleased s) := by
  obtain ⟨hn, -, hpin⟩ := wake_pins (s := s) (t := Machine.wakeReleased s) rfl
  have hcrit : s.crit = (s.kCrit && isSampling .wake) := hp ▸ h.critWindow
  have hbit : s.bitidx = 0 := h.noBits (by simp [hp]) (by simp [hp])
  exact { h with
    reading := rfl
    critWindow := hcrit
    noBits := fun _ _ => hbit
    waiting := fun hs => by simp [Machine.wakeReleased, isSampling] at hs
    readPin := hn ▸ h.readPin
    wakePin := fun hw => by cases hw
    inputPin := fun _ => hpin h.readPin }

/-- Packing the next bit leaves 0 the bits that have not been received (R97). -/
theorem frameTail_packBit {f : Frame} {x : BitVec 6} (bit : Bool) (hx : x.toNat < 40)
    (hf : ∀ i, i < 40 → x.toNat ≤ i → frameBit f i = false) :
    ∀ i, i < 40 → (x + 1).toNat ≤ i → frameBit (packBit f x.toNat bit) i = false := by
  intro i hi hle
  rw [bitidx_succ hx] at hle
  rw [frameBit_packBit_other f bit hi hx (by omega)]
  exact hf i hi (by omega)

/-- The next wait begins (R90): what changes in the invariant is what depends on the phase. -/
theorem ReadInv.startWait {s : State} {q : Phase} {c w : Bool} (h : ReadInv s) (hs : s.phase ≠ .wake)
    (hc : c = s.kCrit) (hq : isSampling q = true) (hb : q ≠ .dataLow → q ≠ .dataHigh → s.bitidx = 0) :
    ReadInv (startWait q (waitLevel q) { s with crit := c, dlyWrap := w }) := { h with
  reading := readRunning_of_sampling hq
  critWindow := by simp [hc, hq]
  noBits := hb
  waiting := fun _ => ⟨rfl, le_rfl⟩
  wakePin := fun hw => by simp only [startWait_phase] at hw; simp [hw, isSampling] at hq
  inputPin := fun _ => h.inputPin hs }

/-- The wait times out (R99). -/
theorem ReadInv.timeout {s : State} (h : ReadInv s) (hs : isSampling s.phase = true) :
    RestInv (timeout (timeoutCause s.phase) s) := { h with
  rest := .inl ⟨rfl, rfl⟩
  noCrit := rfl
  causeResult := by
    have : timeoutCause s.phase ≠ .none := by revert hs; cases s.phase <;> decide
    simpa [Machine.timeout] using this
  bitidxBound := h.bitidxBound.le
  timeoutFrame := fun _ => ⟨rfl, rfl⟩
  verdict := fun hr => absurd rfl hr }

theorem validate_ne_timeoutError (c b : Byte) : validate c b ≠ .timeoutError := by
  unfold validate; split <;> decide

/-- A READ is finished with the validator's verdict (R98). -/
theorem LastingInv.finish {s : State} (h : LastingInv s) (hb : s.bitidx.toNat ≤ 40) : RestInv (finish s) := { h with
  rest := .inl ⟨rfl, rfl⟩
  noCrit := rfl
  causeResult := by simp [Machine.finish, validate_ne_timeoutError]
  bitidxBound := hb
  timeoutFrame := fun hr => absurd hr (validate_ne_timeoutError _ _)
  verdict := fun _ => ⟨rfl, rfl⟩ }

theorem ReadInv.sampled {s : State} (h : ReadInv s) (ls d) : ReadInv (sampled ls d s) := { h with }

theorem ReadInv.waiting_pred {s : State} (h : ReadInv s) (hs : isSampling s.phase = true) (h0 : s.tcnt ≠ 0) :
    ReadInv { s with tcnt := s.tcnt - 1 } := by
  obtain ⟨hl, hc⟩ := h.waiting hs
  have hpred := tcnt_pred h0
  have hle : (s.tcnt - 1).toNat ≤ s.kTimeout.toNat := by omega
  exact { h with waiting := fun _ => ⟨hl, hle⟩ }

/-- A bit of DATA_HIGH that is not the last (R95). -/
theorem ReadInv.bitReceived {s : State} (h : ReadInv s) (hp : s.phase = .dataHigh) (hb : s.bitidx.toNat < 39) :
    ReadInv (bitReceived s) := { h with
  noBits := fun _ h2 => absurd hp h2
  bitidxBound := (bitidx_succ h.bitidxBound).trans_lt (Nat.succ_lt_succ hb)
  frameTail := ⟨h.frameTail.1, frameTail_packBit _ h.bitidxBound h.frameTail.2⟩ }

theorem BlockInv.sequencer {s t : State} (h : BlockInv s) (ht : t = sequencerStep s) : BlockInv t := by
  have hw {q : Phase} (hq : s.phase = q) (hne : q ≠ .wake) : s.phase ≠ .wake := hq ▸ hne
  have hr {q : Phase} (hq : s.phase = q) (hrun : readRunning q = true) : ReadInv s := h.readInv (hq ▸ hrun)
  have hc {q : Phase} (hq : s.phase = q) (hs : isSampling q = true) : s.crit = s.kCrit := by
    rw [h.critWindow, hq, hs, Bool.and_true]
  cases sequencer_effect ht with
  | idle _ => exact h
  | poll w => exact { h with }
  | delayEnd hp => exact RestInv.blockInv { h.restInv (hp ▸ rfl) with rest := .inl ⟨rfl, rfl⟩ }
  | wakeEnd hp => exact ((hr hp rfl).wakeReleased hp).blockInv
  | settleEnd hp =>
    have hcrit : (s.crit || s.kCrit) = s.kCrit := by simp [h.critWindow, hp, isSampling]
    have hbit : s.bitidx = 0 := h.bitidxStart (.inr (.inl hp))
    exact ((hr hp rfl).startWait (q := .ackLow) (hw hp (by decide)) hcrit rfl fun _ _ => hbit).blockInv
  | timeout hs _ => exact ((h.readInv (readRunning_of_sampling hs)).timeout hs).blockInv
  | waiting ls d hs h0 =>
    exact (((h.readInv (readRunning_of_sampling hs)).sampled ls d).waiting_pred hs h0).blockInv
  | exitAckLow ls d hp =>
    have hbit : s.bitidx = 0 := h.bitidxStart (.inr (.inr (.inl hp)))
    exact (((hr hp rfl).sampled ls d).startWait (q := .ackHigh) (hw hp (by decide)) (hc hp rfl) rfl
      fun _ _ => hbit).blockInv
  | exitAckHigh ls d hp =>
    exact (((hr hp rfl).sampled ls d).startWait (q := .dataLow) (hw hp (by decide)) (hc hp rfl) rfl
      (absurd rfl)).blockInv
  | exitDataLow ls d hp =>
    have hr' : ReadInv { sampled ls d s with t0 := s.cnt } := { hr hp rfl with }
    exact (hr'.startWait (q := .dataHigh) (hw hp (by decide)) (hc hp rfl) rfl fun _ => absurd rfl).blockInv
  | nextBit ls d hp hb =>
    exact ((((hr hp rfl).sampled ls d).bitReceived hp hb).startWait (q := .dataLow) (hw hp (by decide)) (hc hp rfl) rfl
      (absurd rfl)).blockInv
  | lastBit ls d hp _ =>
    have hl : LastingInv (bitReceived (sampled ls d s)) := { h with }
    have hb := h.bitidxData (.inr hp)
    exact (hl.finish ((bitidx_succ hb).trans_le hb)).blockInv

/-! ### The reset -/

theorem restInv_afterReset (d : ConfigDefaults) (n k : Nat) : RestInv (State.afterReset d n k) where
  rest := .inl ⟨rfl, rfl⟩
  causeResult := by simp [State.afterReset]
  faultSet := List.nodup_nil
  ovrRecorded := fun h => by cases h
  illRecorded := fun h => by cases h
  noCrit := rfl
  bitidxBound := by simp [State.afterReset]
  timeoutFrame := fun h => by cases h
  verdict := fun _ => ⟨show (0 : Byte) = checksum8 0 0 0 0 by decide, show Result.ok = validate 0 0 by decide⟩

theorem blockInv_releaseReset (s : State) : BlockInv (releaseReset s) :=
  { (restInv_afterReset s.defaults s.numPins s.draws).blockInv with }

/-- Settles O49, by the effect of the step: most leave the running operation alone, an accept step starts one from
rest, and a Sequencer step moves it on or ends it. -/
theorem everyStepKeepsTheInvariant : Obligations.EveryStepKeepsTheInvariant := by
  intro s t h hst
  cases step_effect hst with
  | quiet ins d r b => exact { h with }
  | fault ins d r f => exact (h.served ins d r).recordFault f
  | statusWrite ins d r v _ => exact (h.served ins d r).clearSticky v
  | config ins d r reg v _ => exact (h.served ins d r).storeConfig reg v
  | accept ins d r i t ha he =>
    obtain ⟨w, -, -, hb, hd⟩ := ha
    exact (h.served ins d r).exec hb (decode_wellFormed hd) he
  | sequencer ins d _ => exact (h.served ins d s.response).sequencer rfl
  | clock ins d k _ _ => exact { h with }
  | reset ins d _ => exact blockInv_releaseReset _

end Sys2Proof.Machine
end

section
/-! PROOF. The words the registers read as (R18, R28 to R30), and what a write to one does (R16, R17, R25, R31, R32). -/

namespace Sys2Proof.Machine

/-! ### Reads -/

/-- The multi-bit fields of STATUS: each is reached by dropping the fields below it from the concatenation. -/
theorem statusWord_fields (s : State) :
    (statusWord s).extractLsb' 2 2 = resultCode s.result ∧ (statusWord s).extractLsb' 4 3 = causeCode s.cause ∧
      (statusWord s).extractLsb' 11 6 = s.bitidx ∧ (statusWord s).extractLsb' 17 3 = phaseCode s.phase ∧
      (statusWord s).extractLsb' 20 12 = 0 := by
  unfold statusWord
  refine ⟨?_, ?_, ?_, ?_, ?_⟩
  case refine_5 =>
    repeat rw [BitVec.extractLsb'_append_eq_of_le (by decide)]
    rfl
  all_goals
    repeat rw [BitVec.extractLsb'_append_eq_of_le (by decide)]
    exact BitVec.extractLsb'_append_eq_right

/-- The one-bit fields of STATUS. -/
theorem statusWord_bits (s : State) :
    (statusWord s).getLsbD 0 = s.busy ∧ (statusWord s).getLsbD 1 = s.done ∧ (statusWord s).getLsbD 7 = s.crit ∧
      (statusWord s).getLsbD 8 = s.level ∧ (statusWord s).getLsbD 9 = s.ovr ∧ (statusWord s).getLsbD 10 = s.ill := by
  unfold statusWord
  refine ⟨?_, ?_, ?_, ?_, ?_, ?_⟩
  all_goals
    repeat rw [BitVec.getLsbD_append, if_neg (by decide)]
    rw [BitVec.getLsbD_append, if_pos (by decide)]
    simp

/-- Settles O40, from the fields of `statusWord` and the tables of the three codes. -/
theorem statusWordHasTheFieldsOfR18 : Obligations.StatusWordHasTheFieldsOfR18 := by
  intro s
  simp only [regValue]
  obtain ⟨hbusy, hdone, hcrit, hlevel, hovr, hill⟩ := statusWord_bits s
  obtain ⟨hresult, hcause, hbitidx, hphase, hzero⟩ := statusWord_fields s
  refine ⟨hbusy, hdone, ?_, ?_, hcrit, hlevel, hovr, hill, hbitidx, ?_, hzero⟩
  · intro r n hn hs
    rw [hresult, hs]
    cases r <;> simp at hn <;> rw [hn] <;> rfl
  · intro c n hn hs
    rw [hcause, hs]
    cases c <;> simp at hn <;> rw [hn] <;> rfl
  · intro p n hn hs
    rw [hphase, hs]
    cases p <;> simp at hn <;> rw [hn] <;> rfl

/-- Byte lane `k` of four bytes written from the highest down is the byte `k` from the right (R39). -/
theorem byteLane_concat (b3 b2 b1 b0 : Byte) :
    byteLane (b3 ++ b2 ++ b1 ++ b0) 0 = b0 ∧ byteLane (b3 ++ b2 ++ b1 ++ b0) 1 = b1 ∧
      byteLane (b3 ++ b2 ++ b1 ++ b0) 2 = b2 ∧ byteLane (b3 ++ b2 ++ b1 ++ b0) 3 = b3 := by
  unfold byteLane
  refine ⟨?_, ?_, ?_, ?_⟩
  case refine_4 =>
    repeat rw [BitVec.extractLsb'_append_eq_of_le (by decide)]
    exact BitVec.extractLsb'_eq_self
  all_goals
    repeat rw [BitVec.extractLsb'_append_eq_of_le (by decide)]
    exact BitVec.extractLsb'_append_eq_right

/-- Settles O41, by the lanes of a concatenation of four bytes; a 64-bit value is the concatenation of its halves. -/
theorem frameTimeAndLastReadInTheirOrder : Obligations.FrameTimeAndLastReadInTheirOrder := by
  intro s
  obtain ⟨h0, h1, h2, h3⟩ := byteLane_concat s.frame.b3 s.frame.b2 s.frame.b1 s.frame.b0
  have hhi : frameHiWord s = (0 : Byte) ++ (0 : Byte) ++ s.csumCalc ++ s.frame.b4 := rfl
  obtain ⟨k0, k1, k2, k3⟩ := byteLane_concat 0 0 s.csumCalc s.frame.b4
  have halves (x : DWord) : x.extractLsb' 32 32 ++ x.extractLsb' 0 32 = x :=
    (BitVec.extractLsb'_append_extractLsb'_eq_extractLsb' (by rfl)).trans BitVec.extractLsb'_eq_self
  simp only [regValue, hhi]
  exact ⟨h0, h1, h2, h3, k0, k1, k2, k3, halves s.time, halves s.last⟩

/-! ### Writes -/

/-- No write to an idle block is an overrun. -/
theorem step_write_idle {s : State} {rest : List Input} {r : Reg} {v : Word}
    (h : s.inputs = .bus ⟨regOffset r, .word, .write v⟩ :: rest) (hr : s.inReset = false) (hb : s.busy = false)
    (hro : isReadOnly r = false) :
    step s = registerWrite r v { s with inputs := rest, response := .written } :=
  step_write_listed r v h hr hro (by simp [hb])

/-- Settles O6: the write is admitted, no overrun, and its word decodes. -/
theorem stepRunsTheDecodedCommand : Obligations.StepRunsTheDecodedCommand := by
  intro s w rest i h hr hb hd
  rw [step_write_idle (r := .cmd) h hr hb rfl]
  exact commandWrite_legal hd

/-- Settles O44: the six writes are the six rules of `registerWrite`, and only CFG_CTRL reads less than a word. -/
theorem configurationWritesStoreTheirValue : Obligations.ConfigurationWritesStoreTheirValue := by
  refine ⟨fun s v rest hr hb => ?_, fun s => ⟨rfl, rfl, rfl, rfl, rfl, ?_⟩⟩
  · exact ⟨fun h => step_write_idle (r := .arg) h hr hb rfl, fun h => step_write_idle (r := .cfgWakeMs) h hr hb rfl,
      fun h => step_write_idle (r := .cfgSettleUs) h hr hb rfl,
      fun h => step_write_idle (r := .cfgThreshUs) h hr hb rfl,
      fun h => step_write_idle (r := .cfgTimeout) h hr hb rfl, fun h => step_write_idle (r := .cfgCtrl) h hr hb rfl⟩
  · rw [regValue]; cases s.critEn <;> rfl

end Sys2Proof.Machine
end

section
/-! PROOF. Which steps change which fields. `step_operation` sorts the steps by what they do to the running operation;
for an accept step and for a Sequencer step one lemma per group of fields says what becomes of them. -/

namespace Sys2Proof.Machine

/-! ### FAULTS and the sticky bits -/

/-- Settles O51: a fault is added and none removed, but for the reset. -/
theorem faultsAreNeverForgotten : Obligations.FaultsAreNeverForgotten := by
  intro s t h
  cases step_effect h with
  | fault ins d r f => exact .inr fun g hg => (mem_raiseFault f g _).2 (.inr hg)
  | accept ins d r i t ha he => exact .inr fun f hf => by rw [exec_frame he]; exact hf
  | sequencer ins d hs => exact .inr fun f hf => by rw [sequencerStep_frame rfl]; exact hf
  | reset ins d hr => exact .inl ⟨hr, rfl⟩
  | config ins d r reg v hw => exact .inr fun f hf => by rw [storeConfig_frame rfl]; exact hf
  | quiet | statusWrite | clock => exact .inr fun f hf => hf

/-- A STATUS write keeps a sticky bit unless it writes 1 to it (R25). -/
theorem sticky_keeps {b c : Bool} (hb : b = true) : (b && !c) = true ∨ c = true := by
  cases c <;> simp [hb]

/-- A set OVR or ILL stays set but for a STATUS write with a 1 at its bit, or a reset. -/
theorem sticky_until_cleared {s t : State} (h : step s = .next t) : ReleasesReset s ∨
    ((s.ovr = true → t.ovr = true ∨ ∃ v, (nextInput s).1 = .bus ⟨0x08, .word, .write v⟩ ∧ v.getLsbD 9 = true) ∧
     (s.ill = true → t.ill = true ∨ ∃ v, (nextInput s).1 = .bus ⟨0x08, .word, .write v⟩ ∧ v.getLsbD 10 = true)) := by
  cases step_effect h with
  | fault ins d r f => exact .inr ⟨fun h => .inl (Bool.or_eq_true_iff.2 (.inr h)),
      fun h => .inl (Bool.or_eq_true_iff.2 (.inr h))⟩
  | statusWrite ins d r v hv => exact .inr ⟨fun h => (sticky_keeps h).imp_right fun hc => ⟨v, hv, hc⟩,
      fun h => (sticky_keeps h).imp_right fun hc => ⟨v, hv, hc⟩⟩
  | accept ins d r i t ha he => rw [exec_frame he]; exact .inr ⟨.inl, .inl⟩
  | sequencer ins d hs => rw [sequencerStep_frame rfl]; exact .inr ⟨.inl, .inl⟩
  | config ins d r reg v hw => rw [storeConfig_frame rfl]; exact .inr ⟨.inl, .inl⟩
  | reset ins d hr => exact .inl hr
  | quiet | clock => exact .inr ⟨.inl, .inl⟩

/-- Settles O43: the write rule of STATUS, and every other step sets the bits or leaves them. -/
theorem statusWriteClearsOnlyStickyBits : Obligations.StatusWriteClearsOnlyStickyBits := by
  refine ⟨fun s v rest h hr => ?_, fun s t => sticky_until_cleared⟩
  exact step_write_listed .status v h hr rfl (Bool.and_false _)

/-! ### ARG and CFG_* -/

/-- Settles O53: only `storeConfig` touches the six registers, one at a time. -/
theorem configurationChangesOnlyByHostWrites : Obligations.ConfigurationChangesOnlyByHostWrites := by
  intro s t h
  cases step_effect h with
  | config ins d r reg v hw =>
    refine ⟨by rw [storeConfig_frame rfl], .inr ?_⟩
    cases reg
    case arg => exact ⟨.inr hw, .inl rfl, .inl rfl, .inl rfl, .inl rfl, .inl rfl⟩
    case cfgWakeMs => exact ⟨.inl rfl, .inr hw, .inl rfl, .inl rfl, .inl rfl, .inl rfl⟩
    case cfgSettleUs => exact ⟨.inl rfl, .inl rfl, .inr hw, .inl rfl, .inl rfl, .inl rfl⟩
    case cfgThreshUs => exact ⟨.inl rfl, .inl rfl, .inl rfl, .inr hw, .inl rfl, .inl rfl⟩
    case cfgTimeout => exact ⟨.inl rfl, .inl rfl, .inl rfl, .inl rfl, .inr hw, .inl rfl⟩
    case cfgCtrl => exact ⟨.inl rfl, .inl rfl, .inl rfl, .inl rfl, .inl rfl, .inr ⟨v, hw, rfl⟩⟩
    all_goals exact ⟨.inl rfl, .inl rfl, .inl rfl, .inl rfl, .inl rfl, .inl rfl⟩
  | accept ins d r i t ha he =>
    rw [exec_frame he]
    exact ⟨rfl, .inr ⟨.inl rfl, .inl rfl, .inl rfl, .inl rfl, .inl rfl, .inl rfl⟩⟩
  | sequencer ins d hs =>
    rw [sequencerStep_frame rfl]
    exact ⟨rfl, .inr ⟨.inl rfl, .inl rfl, .inl rfl, .inl rfl, .inl rfl, .inl rfl⟩⟩
  | reset ins d hr => exact ⟨rfl, .inl hr⟩
  | quiet | fault | statusWrite | clock =>
    exact ⟨rfl, .inr ⟨.inl rfl, .inl rfl, .inl rfl, .inl rfl, .inl rfl, .inl rfl⟩⟩

/-! ### The steps by what they do to the running operation -/

/-- A step touches no more than the configuration, FAULTS, the sticky bits, the reset input and the model's own
fields, or it is the accept step of a command, a Sequencer step, a Clock step or a reset. -/
theorem step_operation {s t : State} (h : step s = .next t) :
    (t = { s with
      arg := t.arg, ovr := t.ovr, ill := t.ill, cfgWakeMs := t.cfgWakeMs, cfgSettleUs := t.cfgSettleUs,
      cfgThreshUs := t.cfgThreshUs, cfgTimeout := t.cfgTimeout, critEn := t.critEn, faults := t.faults,
      inReset := t.inReset, inputs := t.inputs, draws := t.draws, response := t.response }) ∨
    ∃ u ins d r, u = { s with inputs := ins, draws := d, response := r } ∧
      ((∃ i, Accepts s i ∧ exec i u = .next t) ∨ (SequencerSteps s ∧ t = sequencerStep u) ∨
       (∃ k, (nextInput s).1 = .clock k ∧ s.inReset = false ∧ t = clockStep k u) ∨
       (ReleasesReset s ∧ t = releaseReset u)) := by
  cases step_effect h with
  | config ins d r reg v hw => exact .inl (by rw [storeConfig_frame rfl])
  | accept ins d r i t ha he => exact .inr ⟨_, ins, d, r, rfl, .inl ⟨i, ha, he⟩⟩
  | sequencer ins d hs => exact .inr ⟨_, ins, d, s.response, rfl, .inr (.inl ⟨hs, rfl⟩)⟩
  | clock ins d k hk hr => exact .inr ⟨_, ins, d, s.response, rfl, .inr (.inr (.inl ⟨k, hk, hr, rfl⟩))⟩
  | reset ins d hr => exact .inr ⟨_, ins, d, s.response, rfl, .inr (.inr (.inr ⟨hr, rfl⟩))⟩
  | quiet | fault | statusWrite => exact .inl rfl

/-! ### True time -/

theorem step_T {s t : State} (h : step s = .next t) : (t.T = s.T ∧ t.cntInit = s.cntInit) ∨
    (∃ k, (nextInput s).1 = .clock k ∧ s.inReset = false ∧ t.T = s.T + (k + 1) ∧ t.cntInit = s.cntInit) ∨
    (ReleasesReset s ∧ t.T = 0) := by
  obtain hq | ⟨u, ins, d, r, rfl, ⟨i, -, he⟩ | ⟨-, hs⟩ | ⟨k, hk, hr, rfl⟩ | ⟨hr, rfl⟩⟩ := step_operation h
  · rw [hq]; exact .inl ⟨rfl, rfl⟩
  · rw [exec_frame he]; exact .inl ⟨rfl, rfl⟩
  · rw [sequencerStep_frame hs]; exact .inl ⟨rfl, rfl⟩
  · exact .inr (.inl ⟨k, hk, hr, rfl, rfl⟩)
  · exact .inr (.inr ⟨hr, rfl⟩)

theorem cnt_add (s : State) (n : Nat) : ({ s with T := s.T + n } : State).cnt = s.cnt + BitVec.ofNat 64 n := by
  simp only [State.cnt, BitVec.ofNat_add, BitVec.add_assoc]

/-- In an execution without a reset true time never goes back. -/
theorem monotone_T {e : Nat → State} (he : Execution e) (hn : NeverReset e) : Monotone fun n => (e n).T := by
  refine monotone_nat_of_le_succ fun n => ?_
  obtain ⟨t, ht, hnext⟩ := he n
  rw [hnext]
  obtain ⟨hT, -⟩ | ⟨k, -, -, hT, -⟩ | ⟨hr, -⟩ := step_T ht
  · exact hT.ge
  · exact hT ▸ Nat.le_add_right _ _
  · exact absurd hr (hn n)

theorem T_lt_of_clockSteps {e : Nat → State} {n : Nat} (he : Execution e) (hc : ClockSteps (e n)) :
    (e n).T < (e (n + 1)).T := by
  obtain ⟨t, ht, hnext⟩ := he n
  obtain ⟨⟨k, hk⟩, hr⟩ := hc
  rw [step_of_clock hk hr, nextInput_snd] at ht
  cases ht
  rw [hnext]
  exact Nat.lt_add_of_pos_right k.succ_pos

/-- By induction on the bound: after it is reached, fairness gives one more Clock step. -/
theorem T_unbounded {e : Nat → State} (he : Execution e) (hf : ClockFair e) (hn : NeverReset e) (bound : Nat) :
    ∃ n, bound ≤ (e n).T := by
  induction bound with
  | zero => exact ⟨0, Nat.zero_le _⟩
  | succ b ih =>
    obtain ⟨n, hb⟩ := ih
    obtain ⟨m, hm, hc⟩ := hf n
    have hle : (e n).T ≤ (e m).T := monotone_T he hn hm
    exact ⟨m + 1, (hb.trans hle).trans_lt (T_lt_of_clockSteps he hc)⟩

/-- Settles O17, by the effects of a step on T, and for the bound by the Clock's fairness. -/
theorem onlyTheClockMovesTime : Obligations.OnlyTheClockMovesTime := by
  refine ⟨fun s t => step_T, fun s k rest h hr => ⟨?_, cnt_add s (k + 1)⟩, fun e => T_unbounded⟩
  have hn := nextInput_cons h
  rw [step_of_clock (by rw [hn]) hr, hn]
  rfl

/-! ### RESULT and CAUSE -/

/-- A Sequencer step of a block that meets the invariant writes RESULT and CAUSE only when it completes a READ. -/
theorem sequencerStep_result {s t : State} (h : BlockInv s) (ht : t = sequencerStep s) :
    (t.result = s.result ∧ t.cause = s.cause) ∨
    (isSampling s.phase = true ∧ t.busy = false ∧ t.done = true ∧
      ((t.result = .timeoutError ∧ t.cause = timeoutCause s.phase ∧ s.tcnt = 0 ∧ t.csumCalc = 0) ∨
       (t.result ≠ .timeoutError ∧ t.cause = .none ∧ s.phase = .dataHigh ∧ s.bitidx = 39))) := by
  cases sequencer_effect ht with
  | timeout hs h0 => exact .inr ⟨hs, rfl, rfl, .inl ⟨rfl, rfl, h0, rfl⟩⟩
  | lastBit ls d hp hb =>
    have hlast : s.bitidx = 39 :=
      BitVec.eq_of_toNat_eq (Nat.le_antisymm (Nat.le_of_lt_succ (h.bitidxData (.inr hp))) hb)
    exact .inr ⟨hp ▸ rfl, rfl, rfl, .inr ⟨validate_ne_timeoutError _ _, rfl, hp, hlast⟩⟩
  | _ => exact .inl ⟨rfl, rfl⟩

/-- Settles O37: of the effects of a step only a Sequencer step and a reset write RESULT and CAUSE. -/
theorem onlyReadCompletionWritesTheResult : Obligations.OnlyReadCompletionWritesTheResult := by
  intro s t h hst
  obtain hq | ⟨u, ins, d, r, rfl, ⟨i, -, he⟩ | ⟨hs, ht⟩ | ⟨k, -, -, rfl⟩ | ⟨hr, -⟩⟩ := step_operation hst
  · rw [hq]; exact .inl ⟨rfl, rfl⟩
  · rw [exec_frame he]; exact .inl ⟨rfl, rfl⟩
  · exact (sequencerStep_result (h.served ins d r) ht).imp_right fun hc => .inl ⟨hs, hc⟩
  · exact .inl ⟨rfl, rfl⟩
  · exact .inr (.inr hr)

/-! ### TIME, LAST and LEVEL -/

theorem exec_snapshots {i : Instr} {s t : State} (h : exec i s = .next t) :
    (t.time = s.time ∨ (i = .now ∧ t.time = s.cnt)) ∧ (t.last = s.last ∨ ∃ p, i = .read p ∧ t.last = s.cnt) ∧
      (t.level = s.level ∨ ∃ p, i = .readLevel p) := by
  cases exec_effect h with
  | now => exact ⟨.inr ⟨rfl, rfl⟩, .inl rfl, .inl rfl⟩
  | readLevel p l ls d => exact ⟨.inl rfl, .inl rfl, .inr ⟨p, rfl⟩⟩
  | read p => exact ⟨.inl rfl, .inr ⟨p, rfl, rfl⟩, .inl rfl⟩
  | _ => exact ⟨.inl rfl, .inl rfl, .inl rfl⟩

/-- Settles O52, by the frames of a step's effects and the snapshots of an accept step. -/
theorem snapshotsChangeOnlyByTheirCommand : Obligations.SnapshotsChangeOnlyByTheirCommand := by
  intro s t hst
  obtain hq | ⟨u, ins, d, r, rfl, ⟨i, ha, he⟩ | ⟨-, hs⟩ | ⟨k, -, -, rfl⟩ | ⟨hr, rfl⟩⟩ := step_operation hst
  · rw [hq]; exact .inr ⟨.inl rfl, .inl rfl, .inl rfl⟩
  · obtain ⟨htime, hlast, hlevel⟩ := exec_snapshots he
    exact .inr ⟨htime.imp_right fun ⟨hi, hv⟩ => ⟨hi ▸ ha, hv⟩,
      hlast.imp_right fun ⟨p, hi, hv⟩ => ⟨p, hi ▸ ha, hv⟩, hlevel.imp_right fun ⟨p, hi⟩ => ⟨p, hi ▸ ha⟩⟩
  · rw [sequencerStep_frame hs]; exact .inr ⟨.inl rfl, .inl rfl, .inl rfl⟩
  · exact .inr ⟨.inl rfl, .inl rfl, .inl rfl⟩
  · exact .inl ⟨hr, rfl, rfl, rfl⟩

/-! ### The pins -/

theorem modifyPin_pin_cases (p : BitVec 8) (f : Pin → Pin) (s : State) (q : BitVec 8) :
    (modifyPin p f s).pin q = s.pin q ∨ p = q :=
  (eq_or_ne q p).elim (fun h => .inr h.symm) fun h => .inl (modifyPin_pin_other s f h)

/-- A command changes no pin but the one it names, and only the four commands that write pins do. -/
theorem exec_pins {i : Instr} {s t : State} (h : exec i s = .next t) :
    t.numPins = s.numPins ∧ ∀ q, t.pin q = s.pin q ∨
      i = .setOutput q ∨ i = .setInput q ∨ (∃ l, i = .writeLevel q l) ∨ i = .read q := by
  cases exec_effect h with
  | setOutput p =>
    exact ⟨modifyPin_numPins p _ s, fun q => (modifyPin_pin_cases p _ s q).imp_right fun e => .inl (congrArg _ e)⟩
  | setInput p =>
    exact ⟨modifyPin_numPins p _ s,
      fun q => (modifyPin_pin_cases p _ s q).imp_right fun e => .inr (.inl (congrArg _ e))⟩
  | writeLevel p l =>
    exact ⟨modifyPin_numPins p _ s,
      fun q => (modifyPin_pin_cases p _ s q).imp_right
        fun e => .inr (.inr (.inl ⟨l, congrArg (Instr.writeLevel · l) e⟩))⟩
  | read p =>
    obtain ⟨hn, hother, -⟩ := read_pins (p := p) (s := s) (t := readAccepted p s) rfl
    exact ⟨hn, fun q => (eq_or_ne p q).elim (fun e => .inr (.inr (.inr (.inr (congrArg _ e)))))
      fun hq => .inl (hother q hq.symm)⟩
  | _ => exact ⟨rfl, fun q => .inl rfl⟩

/-- A Sequencer step changes no pin but PIN_CUR, and that in PHASE WAKE only (R88). -/
theorem sequencerStep_pins {s t : State} (ht : t = sequencerStep s) :
    t.numPins = s.numPins ∧ ∀ q, t.pin q = s.pin q ∨ (s.phase = .wake ∧ q = s.pinCur) := by
  cases sequencer_effect ht with
  | wakeEnd hp =>
    obtain ⟨hn, hother, -⟩ := wake_pins (s := s) (t := wakeReleased s) rfl
    exact ⟨hn, fun q => (eq_or_ne q s.pinCur).elim (fun e => .inr ⟨hp, e⟩) fun hq => .inl (hother q hq)⟩
  | _ => exact ⟨rfl, fun q => .inl rfl⟩

/-- Settles O54, by the pins of an accept step and of a Sequencer step. -/
theorem pinsChangeOnlyByCommandsAndTheSequencer : Obligations.PinsChangeOnlyByCommandsAndTheSequencer := by
  intro s t hst
  obtain hq | ⟨u, ins, d, r, rfl, ⟨i, ha, he⟩ | ⟨hs, ht⟩ | ⟨k, -, -, rfl⟩ | ⟨hr, rfl⟩⟩ := step_operation hst
  · rw [hq]; exact ⟨rfl, .inr fun q => .inl rfl⟩
  · obtain ⟨hn, hpin⟩ := exec_pins he
    refine ⟨hn, .inr fun q => ?_⟩
    obtain hkeep | rfl | rfl | ⟨l, rfl⟩ | rfl := hpin q
    · exact .inl hkeep
    · exact .inr (.inl ha)
    · exact .inr (.inr (.inl ha))
    · exact .inr (.inr (.inr (.inl ⟨l, ha⟩)))
    · exact .inr (.inr (.inr (.inr (.inl ha))))
  · obtain ⟨hn, hpin⟩ := sequencerStep_pins ht
    exact ⟨hn, .inr fun q => (hpin q).imp_right fun hw => .inr (.inr (.inr (.inr ⟨hs, hw⟩)))⟩
  · exact ⟨rfl, .inr fun q => .inl rfl⟩
  · exact ⟨pinsAtReset_length _ _ _, .inl hr⟩

/-! ### BUSY and DONE -/

/-- An accept step begins an operation or completes its command (R19, R20). -/
theorem exec_flags {i : Instr} {s t : State} (h : exec i s = .next t) (hb : s.busy = false) :
    t.busy = !isImmediate i ∧ t.done = isImmediate i := by
  cases exec_effect h with
  | delayUs | delayMs | read => exact ⟨rfl, rfl⟩
  | _ => exact ⟨hb, rfl⟩

/-- A Sequencer step leaves BUSY and DONE, or completes a running operation. -/
theorem sequencerStep_flags {s t : State} (ht : t = sequencerStep s) :
    (t.busy = s.busy ∧ t.done = s.done) ∨ (s.phase ≠ .idle ∧ t.busy = false ∧ t.done = true) := by
  cases sequencer_effect ht with
  | delayEnd hp => exact .inr ⟨by rw [hp]; decide, rfl, rfl⟩
  | timeout hs _ => exact .inr ⟨fun e => by simp [e, isSampling] at hs, rfl, rfl⟩
  | lastBit ls d hp _ => exact .inr ⟨by rw [hp]; decide, rfl, rfl⟩
  | _ => exact .inl ⟨rfl, rfl⟩

/-- What a step can do to BUSY and DONE. -/
theorem step_flags {s t : State} (h : step s = .next t) :
    (t.busy = s.busy ∧ t.done = s.done) ∨
    (∃ i, Accepts s i ∧ t.busy = !isImmediate i ∧ t.done = isImmediate i) ∨
    (SequencerSteps s ∧ s.phase ≠ .idle ∧ t.busy = false ∧ t.done = true) ∨
    (ReleasesReset s ∧ t.busy = false ∧ t.done = false) := by
  obtain hq | ⟨u, ins, d, r, rfl, ⟨i, ha, he⟩ | ⟨hs, ht⟩ | ⟨k, -, -, rfl⟩ | ⟨hr, rfl⟩⟩ := step_operation h
  · rw [hq]; exact .inl ⟨rfl, rfl⟩
  · have hb : s.busy = false := by obtain ⟨w, -, -, hb, -⟩ := ha; exact hb
    exact .inr (.inl ⟨i, ha, exec_flags he hb⟩)
  · exact (sequencerStep_flags ht).imp_right fun hc => .inr (.inl ⟨hs, hc⟩)
  · exact .inl ⟨rfl, rfl⟩
  · exact .inr (.inr (.inr ⟨hr, rfl, rfl⟩))

/-- Settles O55, by the four things a step can do to BUSY and DONE. -/
theorem busyRisesOnlyForTheLongCommands : Obligations.BusyRisesOnlyForTheLongCommands := by
  refine ⟨fun s t i ha hst => ?_, fun s t hst => ?_, fun s t h hst hd hd' => ?_⟩
  · rw [step_of_accepts ha, nextInput_snd] at hst
    obtain ⟨w, -, -, hb, -⟩ := ha
    exact exec_flags hst hb
  · obtain ⟨hb, hd⟩ | ⟨i, ha, hb, hd⟩ | ⟨-, -, hb, hd⟩ | ⟨hr, hb, hd⟩ := step_flags hst
    · simp +contextual [hb, hd]
    · have hlong : t.done = false → ∃ i, isImmediate i = false ∧ Accepts s i := fun h => ⟨i, hd ▸ h, ha⟩
      obtain ⟨w, -, -, hidle, -⟩ := ha
      refine ⟨fun _ h => ?_, fun _ h => .inr (hlong h), by simp [hidle]⟩
      have hdone : t.done = false := by simpa [hb, ← hd] using h
      exact ⟨hdone, hlong hdone⟩
    · simp [hb, hd]
    · simp [hb, hr]
  · obtain ⟨-, hkeep⟩ | ⟨i, ha, -, hi⟩ | ⟨hs, hp, hb, -⟩ | ⟨-, -, hr⟩ := step_flags hst
    · simp [hkeep, hd] at hd'
    · exact .inl ⟨i, hi ▸ hd', ha⟩
    · exact .inr ⟨hs, h.busyPhase.2 hp, hb⟩
    · simp [hr] at hd'

/-! ### BITIDX -/

theorem exec_bitidx {i : Instr} {s t : State} (h : exec i s = .next t) :
    t.bitidx = s.bitidx ∨ ∃ p, i = .read p ∧ t.bitidx = 0 := by
  cases exec_effect h with
  | read p => exact .inr ⟨p, rfl, rfl⟩
  | _ => exact .inl rfl

theorem sequencerStep_bitidx {s t : State} (ht : t = sequencerStep s) :
    t.bitidx = s.bitidx ∨ (s.phase = .dataHigh ∧ t.bitidx = s.bitidx + 1) := by
  cases sequencer_effect ht with
  | nextBit ls d hp _ => exact .inr ⟨hp, rfl⟩
  | lastBit ls d hp _ => exact .inr ⟨hp, rfl⟩
  | _ => exact .inl rfl

/-- Both ends of DATA_HIGH's exit count the bit (R95). -/
theorem exitDataHigh_bitidx (c : DWord) (s : State) : (exitDataHigh c s).bitidx = s.bitidx + 1 := by
  rw [exitDataHigh_eq]
  split <;> rfl

/-- The sample that ends a data bit's pulse completes the bit. -/
theorem sequencerStep_exit_dataHigh {s : State} (hp : s.phase = .dataHigh) (h0 : s.tcnt ≠ 0)
    (hl : (readLine s.pinCur s).1 ≠ s.waitLvl) : (sequencerStep s).bitidx = s.bitidx + 1 := by
  rw [sequencerStep_sampling (by rw [hp]; rfl), hp]
  obtain ⟨h, -⟩ | ⟨-, -, e⟩ | ⟨-, h, -⟩ := waitStep_cases (timeoutCause .dataHigh) (exitOf .dataHigh) s
  · exact absurd h h0
  · rw [e, exitOf, exitDataHigh_bitidx, readLine_snd]
  · exact absurd h hl

/-- Settles O56, by the bits an accept step and a Sequencer step count. -/
theorem bitidxCountsCompletedBits : Obligations.BitidxCountsCompletedBits := by
  refine ⟨fun s t p ha hst => ?_, fun s t hs hp h0 hl hst => ?_, fun s t hst => ?_⟩
  · rw [step_of_accepts ha, exec, execRead_eq] at hst
    cases hst
    rfl
  · rw [step_of_sequencerSteps hs] at hst
    cases hst
    rw [nextInput_snd] at hl ⊢
    exact sequencerStep_exit_dataHigh hp h0 hl
  · obtain hq | ⟨u, ins, d, r, rfl, ⟨i, ha, he⟩ | ⟨hs, ht⟩ | ⟨k, -, -, rfl⟩ | ⟨hr, -⟩⟩ := step_operation hst
    · rw [hq]; exact .inr (.inl rfl)
    · obtain hkeep | ⟨p, rfl, h0⟩ := exec_bitidx he
      · exact .inr (.inl hkeep)
      · exact .inr (.inr (.inl ⟨⟨p, ha⟩, h0⟩))
    · exact .inr ((sequencerStep_bitidx ht).imp_right fun hc => .inr ⟨hs, hc⟩)
    · exact .inr (.inl rfl)
    · exact .inl hr

end Sys2Proof.Machine
end

section
/-! PROOF. Which accesses are admitted and what a refused access and a read leave unchanged (R41 to R46), and what a block
with no READ running leaves of the last one's results (R51). -/

namespace Sys2Proof.Machine

/-! ### Bus errors -/

/-- Every offset is a register's, or breaks the alignment rule (R42), or is past the last register (R43). -/
theorem regAt_eq_none_iff : ∀ off : BitVec 6, regAt off = none ↔ off.toNat % 4 ≠ 0 ∨ 0x38 ≤ off.toNat := by decide

theorem regOffset_of_regAt : ∀ (off : BitVec 6) (r : Reg), regAt off = some r → off = regOffset r := by decide

/-- The read-only registers are one range of the register map (R44). -/
theorem isReadOnly_iff_offset (r : Reg) :
    isReadOnly r = true ↔ 0x0C ≤ (regOffset r).toNat ∧ (regOffset r).toNat ≤ 0x20 := by
  cases r <;> decide

/-- An access that none of R41 to R44 and R133 refuses is admitted. -/
theorem admitted_of_not_isBusError {s : State} {a : BusAccess} (h : ¬ IsBusError s a) : admittedReg s a ≠ none := by
  simp only [IsBusError, not_or] at h
  obtain ⟨hres, hwidth, halign, hmapped, hro⟩ := h
  obtain ⟨off, width, op⟩ := a
  cases hreg : regAt off with
  | none => exact absurd ((regAt_eq_none_iff off).1 hreg) (not_or.2 ⟨halign, hmapped⟩)
  | some r =>
    obtain rfl := regOffset_of_regAt off r hreg
    obtain rfl : width = .word := not_not.1 hwidth
    have hw : isWrite op = false ∨ isReadOnly r = false := by
      cases op with
      | read => exact .inl rfl
      | write v => exact .inr (Bool.eq_false_iff.2 fun hr => hro ⟨⟨v, rfl⟩, (isReadOnly_iff_offset r).1 hr⟩)
    simp [admit_regOffset r op (Bool.eq_false_iff.2 hres) hw]

/-- Each refusing rule contradicts what an admitted access is. -/
theorem not_isBusError_of_admitted {s : State} {a : BusAccess} {r : Reg} (h : admittedReg s a = some r) :
    ¬ IsBusError s a := by
  obtain ⟨hres, hwidth, hoff, hro⟩ := admit_some h
  have hmapped : ¬ (a.off.toNat % 4 ≠ 0 ∨ 0x38 ≤ a.off.toNat) := fun hn => by
    simpa [hoff] using (regAt_eq_none_iff a.off).2 hn
  rintro (h | h | h | h | ⟨⟨v, hv⟩, hrange⟩)
  · simp [hres] at h
  · exact h hwidth
  · exact hmapped (.inl h)
  · exact hmapped (.inr h)
  · rw [hoff, ← isReadOnly_iff_offset, hro (by rw [hv]; rfl)] at hrange
    cases hrange

theorem isBusError_iff (s : State) (a : BusAccess) : IsBusError s a ↔ admittedReg s a = none := by
  refine ⟨fun h => ?_, fun h => not_not.1 fun hn => admitted_of_not_isBusError hn h⟩
  cases ha : admittedReg s a with
  | none => rfl
  | some r => exact absurd h (not_isBusError_of_admitted ha)

theorem busAccess_refused {s : State} {a : BusAccess} (h : IsBusError s a) :
    busAccess a s = .next (refuseAccess a s) := by
  rw [busAccess, (isBusError_iff s a).1 h]

/-- Settles O38: the admission rule read both ways, and a refused access is one raised fault. -/
theorem busErrorsHaveNoOtherEffect : Obligations.BusErrorsHaveNoOtherEffect := by
  refine ⟨isBusError_iff, fun s a rest h hbad => ?_⟩
  rw [step_of_inputs h]
  exact busAccess_refused (s := { s with inputs := rest }) hbad

/-! ### Reads -/

theorem step_read_listed {s : State} {rest : List Input} (r : Reg)
    (h : s.inputs = .bus ⟨regOffset r, .word, .read⟩ :: rest) (hr : s.inReset = false) :
    step s = .next (busRead r { s with inputs := rest }) := by
  have hadm := admit_regOffset (s := { s with inputs := rest }) r .read hr (.inl rfl)
  rw [step_of_inputs h, inputStep, busAccess, hadm]

/-- No register's value depends on what the outside world does next. -/
@[simp] theorem regValue_inputs (s : State) (ins : List Input) (r : Reg) :
    regValue { s with inputs := ins } r = regValue s r := rfl

/-- Settles O39, by the two branches of `busRead`: the register's value, or a draw for a frame register of a busy
block. -/
theorem readsHaveNoSideEffects : Obligations.ReadsHaveNoSideEffects := by
  refine ⟨fun s => rfl, fun s r rest h hr => ⟨fun hval => ?_, fun hb hf => ⟨Config.freeFrameWord s.draws, ?_⟩⟩⟩
  · have hidle : (s.busy && isFrameReg r) = false := Bool.and_eq_false_iff.2 hval
    simp [step_read_listed r h hr, busRead, hidle]
  · simp [step_read_listed r h hr, busRead, hb, hf]

/-! ### The results of the last READ -/

/-- Every command but READ leaves FRAME, CSUM_CALC, RESULT, CAUSE and BITIDX out of its accept step. -/
theorem exec_frame_of_not_read {i : Instr} {s t : State} (h : exec i s = .next t) : (∃ p, i = .read p) ∨ t = { s with
    busy := t.busy, done := t.done, level := t.level, phase := t.phase, time := t.time, pins := t.pins, dlyM := t.dlyM,
    dlyE := t.dlyE, dlyWrap := t.dlyWrap, lineIn := t.lineIn, draws := t.draws } := by
  cases exec_effect h with
  | read p => exact .inl ⟨p, rfl⟩
  | _ => exact .inr rfl

/-- With no READ running the Sequencer has a delay to poll or to end, or nothing to do (R76). -/
theorem sequencerStep_frame_of_rest {s t : State} (ht : t = sequencerStep s) (hq : readRunning s.phase = false) :
    t = { s with busy := t.busy, done := t.done, phase := t.phase, dlyWrap := t.dlyWrap } := by
  cases sequencer_effect ht with
  | idle | poll | delayEnd => rfl
  | timeout hs _ | waiting _ _ hs _ => simp [readRunning_of_sampling hs] at hq
  | wakeEnd hp | settleEnd hp | exitAckLow _ _ hp | exitAckHigh _ _ hp | exitDataLow _ _ hp | nextBit _ _ hp _
  | lastBit _ _ hp _ => simp [hp, readRunning] at hq

/-- Settles O57: of the effects of a step only a READ's accept, a Sequencer step of a running READ and a reset write the
five results. -/
theorem readResultsStayUntilTheNextRead : Obligations.ReadResultsStayUntilTheNextRead := by
  intro s t _ hq hst
  obtain hkeep | ⟨u, ins, d, r, rfl, ⟨i, ha, he⟩ | ⟨-, ht⟩ | ⟨k, -, -, rfl⟩ | ⟨hr, -⟩⟩ := step_operation hst
  · rw [hkeep]; exact .inr (.inr ⟨rfl, rfl, rfl, rfl, rfl⟩)
  · obtain ⟨p, rfl⟩ | hkeep := exec_frame_of_not_read he
    · exact .inr (.inl ⟨p, ha⟩)
    · rw [hkeep]; exact .inr (.inr ⟨rfl, rfl, rfl, rfl, rfl⟩)
  · rw [sequencerStep_frame_of_rest ht hq]; exact .inr (.inr ⟨rfl, rfl, rfl, rfl, rfl⟩)
  · exact .inr (.inr ⟨rfl, rfl, rfl, rfl, rfl⟩)
  · exact .inl hr

end Sys2Proof.Machine
end

section
/-! PROOF. The command words (R56 to R64, R68): a word with RSV = 0 is its three other fields, the decoder undoes the
encoder, and row by row it rejects the words that R64 lists. -/

namespace Sys2Proof.Machine

/-! ### Words and fields (R56) -/

/-- The three shifted fields do not overlap, so their OR is their sum. -/
theorem enc_toNat (op pin : BitVec 8) (lvl : Level) :
    (enc op pin lvl).toNat = op.toNat + pin.toNat * 0x100 + lvl.toNat * 0x10000 := by
  have hop := op.isLt
  have hpin := pin.isLt
  have hlvl := lvl.toNat_le
  have hor : (enc op pin lvl).toNat = lvl.toNat <<< 16 ||| pin.toNat <<< 8 ||| op.toNat := by
    simp (disch := omega) only [enc, BitVec.toNat_or, BitVec.toNat_shiftLeft, BitVec.toNat_setWidth,
      BitVec.toNat_ofBool, Nat.mod_eq_of_lt]
  rw [hor, Nat.or_assoc, ← Nat.shiftLeft_add_eq_or_of_lt hop, ← Nat.shiftLeft_add_eq_or_of_lt (by omega)]
  omega

theorem encode_toNat (i : Instr) :
    (encode i).toNat = (opcodeOf i).toNat + (pinOf i).toNat * 0x100 + (lvlOf i).toNat * 0x10000 :=
  enc_toNat _ _ _

/-- `Laws.enc_fields` the other way round: a word with RSV = 0 holds nothing but its OP, PIN and LVL (R60). -/
theorem enc_fields_eq {w : Word} (hrsv : rsvField w = 0) : enc (opField w) (pinField w) (lvlField w) = w := by
  have hrsv : w.toNat >>> 17 % 2 ^ 15 = 0 := congrArg BitVec.toNat hrsv
  have hlvl : (lvlField w).toNat = w.toNat >>> 16 % 2 := by
    rw [lvlField, BitVec.getLsbD, Nat.toNat_testBit, Nat.shiftRight_eq_div_pow]
  apply BitVec.eq_of_toNat_eq
  rw [enc_toNat, hlvl]
  simp only [opField, pinField, BitVec.extractLsb'_toNat]
  omega

/-! ### Decoding an encoded command (R57 to R61) -/

theorem decode_encode {n : Nat} {i : Instr} (h : i.wellFormed n = true) : decode n (encode i) = .ok i := by
  obtain ⟨hop, hpin, hlvl, hrsv⟩ := Laws.enc_fields (opcodeOf i) (pinOf i) (lvlOf i)
  rw [decode, encode, hop, hpin, hlvl, if_neg (not_not.2 hrsv)]
  cases i with
  | now | delayUs | delayMs => rfl
  | setOutput p | setInput p | writeLevel p l | readLevel p | read p => exact if_pos h

/-- Settles O1: the four fields of the encoding are the command's, so the decoder takes the command's row and finds its
operands there. -/
theorem decodeOfEncodeIsTheCommand : Obligations.DecodeOfEncodeIsTheCommand := fun _ _ h => decode_encode h

/-! ### The decoder's rows (R58, R59) -/

theorem decodePinless_error_iff {i : Instr} {p : BitVec 8} {l : Level} :
    (∃ r, decodePinless i p l = .error r) ↔ p ≠ 0 ∨ l = true := by
  rw [decodePinless]
  split
  case isTrue hp => exact iff_of_true ⟨_, rfl⟩ (.inl hp)
  case isFalse hp => cases l <;> simp_all

theorem decodeOnPin_error_iff {n : Nat} {i : Instr} {p : BitVec 8} :
    (∃ r, decodeOnPin n i p = .error r) ↔ n ≤ p.toNat := by
  rw [decodeOnPin, pinExists, ← not_lt]
  by_cases hp : p.toNat < n <;> simp [hp]

theorem decodeOnPinLow_error_iff {n : Nat} {i : Instr} {p : BitVec 8} {l : Level} :
    (∃ r, decodeOnPinLow n i p l = .error r) ↔ l = true ∨ n ≤ p.toNat := by
  rw [decodeOnPinLow]
  cases l <;> simp [decodeOnPin_error_iff]

theorem decodePinless_ok_operands {i j : Instr} {p : BitVec 8} {l : Level} (h : decodePinless i p l = .ok j) :
    p = 0 ∧ l = false := by
  simpa [h] using decodePinless_error_iff (i := i) (p := p) (l := l)

theorem decodeOnPinLow_ok_level {n : Nat} {i j : Instr} {p : BitVec 8} {l : Level}
    (h : decodeOnPinLow n i p l = .ok j) : l = false := by
  cases l with
  | false => rfl
  | true => cases h

/-! ### Legal words -/

/-- Row by row, the fields of a legal word are those of its command. -/
theorem decode_ok_fields {n : Nat} {w : Word} {i : Instr} (h : decode n w = .ok i) :
    rsvField w = 0 ∧ opField w = opcodeOf i ∧ pinField w = pinOf i ∧ lvlField w = lvlOf i := by
  unfold decode at h
  split at h
  case isTrue => cases h
  case isFalse hrsv =>
    refine ⟨not_not.1 hrsv, ?_⟩
    split at h
    case h_1 hop | h_2 hop | h_3 hop =>
      obtain rfl := decodePinless_ok h
      exact ⟨BitVec.eq_of_toNat_eq hop, decodePinless_ok_operands h⟩
    case h_4 hop | h_5 hop | h_7 hop | h_8 hop =>
      obtain ⟨rfl, -⟩ := decodeOnPinLow_ok h
      exact ⟨BitVec.eq_of_toNat_eq hop, rfl, decodeOnPinLow_ok_level h⟩
    case h_6 hop =>
      obtain ⟨rfl, -⟩ := decodeOnPin_ok h
      exact ⟨BitVec.eq_of_toNat_eq hop, rfl, rfl⟩
    case h_9 => cases h

/-- Settles O2: the fields of a legal word are its command's, and with RSV = 0 they are the whole word. -/
theorem legalWordsAreTheEncodings : Obligations.LegalWordsAreTheEncodings := by
  intro n w i h
  obtain ⟨hrsv, hop, hpin, hlvl⟩ := decode_ok_fields h
  refine ⟨?_, decode_wellFormed h⟩
  rw [encode, ← hop, ← hpin, ← hlvl, enc_fields_eq hrsv]

/-! ### Illegal words (R64, R120) -/

/-- The rejecting rows of the decoder are R64's list. -/
theorem decode_error_iff {n : Nat} {w : Word} : (∃ r, decode n w = .error r) ↔
    (opField w = 0x00 ∨ 0x09 ≤ (opField w).toNat ∨ rsvField w ≠ 0 ∨
     (opField w ∈ [0x01, 0x02, 0x03] ∧ pinField w ≠ 0) ∨
     (opField w ∈ [0x04, 0x05, 0x06, 0x07, 0x08] ∧ n ≤ (pinField w).toNat) ∨
     (opField w ≠ 0x06 ∧ lvlField w = true)) := by
  unfold decode
  split
  case isTrue hrsv => exact iff_of_true ⟨_, rfl⟩ (.inr (.inr (.inl hrsv)))
  case isFalse hrsv =>
    rw [not_not] at hrsv
    split
    case h_1 hop | h_2 hop | h_3 hop =>
      rw [decodePinless_error_iff]
      simp [← BitVec.toNat_inj, hop, hrsv]
    case h_4 hop | h_5 hop | h_7 hop | h_8 hop =>
      rw [decodeOnPinLow_error_iff]
      simp [← BitVec.toNat_inj, hop, hrsv, or_comm]
    case h_6 hop =>
      rw [decodeOnPin_error_iff]
      simp [← BitVec.toNat_inj, hop, hrsv]
    case h_9 =>
      have hop : (opField w).toNat = 0 ∨ 0x09 ≤ (opField w).toNat := by
        simp only [imp_false] at *
        omega
      exact iff_of_true ⟨_, rfl⟩ (hop.imp BitVec.eq_of_toNat_eq .inl)

theorem commandWrite_illegal {s : State} {w : Word} {r : IllegalWord}
    (h : decode s.numPins w = .error r) : commandWrite w s = .next (illegalCommand w s) := by
  rw [commandWrite, h]

/-- Settles O3: `decode_error_iff`, and the write of an illegal word to an idle block is one raised fault. -/
theorem illegalWordsAreDroppedAndRecorded : Obligations.IllegalWordsAreDroppedAndRecorded := by
  refine ⟨fun _ _ => decode_error_iff, fun s w rest r h hr hb hd => ?_⟩
  rw [step_write_idle (r := .cmd) h hr hb rfl]
  exact commandWrite_illegal hd

/-! ### The words of the spec (R68) -/

/-- Settles O4: each word is the encoding of its command. -/
theorem commandWordsOfTheSpecDecode : Obligations.CommandWordsOfTheSpecDecode :=
  ⟨decode_encode (i := .now) rfl, decode_encode (i := .delayUs) rfl, decode_encode (i := .delayMs) rfl,
    decode_encode (i := .setOutput 4) rfl, decode_encode (i := .setInput 4) rfl,
    decode_encode (i := .writeLevel 4 true) rfl, decode_encode (i := .readLevel 4) rfl,
    decode_encode (i := .read 4) rfl⟩

/-- Settles O5: the sum of `encode_toNat` with the operation and the operands of each command. -/
theorem commandWordsOfTheMnemonics : Obligations.CommandWordsOfTheMnemonics := by
  refine ⟨rfl, rfl, rfl, fun p l => ?_⟩
  simp [encode_toNat, opcodeOf, pinOf, lvlOf]

end Sys2Proof.Machine
end

section
/-! PROOF. The turns of a host program (R67, R68): a read binds a register's value, POLL goes on while BUSY = 1, and the
statements of NOW64 bind the counter. -/

namespace Sys2Proof.Machine

/-! ### The accesses of an admitted statement -/

theorem busAccess_read {s : State} {r : Reg} (hr : s.inReset = false) (hval : s.busy = false ∨ isFrameReg r = false) :
    busAccess ⟨regOffset r, .word, .read⟩ s = .next { s with response := .data (regValue s r) } := by
  have hdraw : (s.busy && isFrameReg r) = false := Bool.and_eq_false_iff.2 hval
  simp [busAccess, admit_regOffset r .read hr (.inl rfl), busRead, hdraw]

/-- A command that the block has, written to CMD while BUSY = 0, starts in the same access (R16). -/
theorem busAccess_command {s : State} {i : Instr} (hr : s.inReset = false) (hb : s.busy = false)
    (hi : i.wellFormed s.numPins = true) :
    busAccess ⟨regOffset .cmd, .word, .write (encode i)⟩ s = exec i { s with response := .written } := by
  rw [busAccess, admit_regOffset .cmd (.write (encode i)) hr (.inr rfl),
    ← commandWrite_legal (s := { s with response := .written }) (decode_encode hi)]
  exact if_neg (by simp [hb])

/-! ### Turns -/

/-- The turn of a statement that reads register `r`: R or POLL (R67). -/
theorem hostTurn_read {s : State} {r : Reg} {n : HostName} {st : HostStmt} {rest : List HostStmt} {env : HostEnv}
    (hst : stmtAccess st = some ⟨regOffset r, .word, .read⟩) (hn : boundName st = some n) (hr : s.inReset = false)
    (hval : s.busy = false ∨ isFrameReg r = false) : hostTurn ⟨st :: rest, env⟩ s =
      .next (⟨afterResponse (.data (regValue s r)) st rest, bindName n (.word (regValue s r)) env⟩,
        { s with response := .data (regValue s r) }) := by
  rw [hostTurn_access hst (busAccess_read hr hval), bindAnswer, hn]
  rfl

theorem afterResponse_poll (s : State) (rest : List HostStmt) :
    afterResponse (.data (regValue s .status)) .poll rest = if s.busy then .poll :: rest else rest := by
  obtain ⟨hbusy, -⟩ := statusWord_bits s
  simp only [afterResponse, pollEnds, responseWord, regValue, hbusy]
  cases s.busy <;> rfl

theorem hostTurn_poll {s : State} (rest : List HostStmt) (env : HostEnv) (hr : s.inReset = false) :
    hostTurn ⟨.poll :: rest, env⟩ s =
      .next (⟨if s.busy then .poll :: rest else rest, bindName "status" (.word (regValue s .status)) env⟩,
        { s with response := .data (regValue s .status) }) := by
  rw [hostTurn_read (r := .status) rfl rfl hr (.inr rfl), afterResponse_poll]

/-- A POLL that is over has read BUSY = 0, and its read has left BUSY as it was. -/
theorem not_busy_of_hostTurn_poll {s t : State} {env env' : HostEnv} (hr : s.inReset = false)
    (h : hostTurn ⟨[.poll], env⟩ s = .next (⟨[], env'⟩, t)) : t.busy = false := by
  rw [hostTurn_poll [] env hr, Host.Outcome.next.injEq, Prod.mk.injEq] at h
  obtain ⟨hp, rfl⟩ := h
  cases hb : s.busy with
  | false => rfl
  | true => simp [hb] at hp

/-! ### NOW64 (R68) -/

theorem hostTurn_now {s : State} (rest : List HostStmt) (env : HostEnv) (hr : s.inReset = false)
    (hb : s.busy = false) : hostTurn ⟨.write .cmd (encode .now) :: rest, env⟩ s =
      .next (⟨rest, env⟩, { s with response := .written, time := s.cnt, done := true }) :=
  hostTurn_access rfl (busAccess_command hr hb rfl)

theorem now64Value_halves (v : DWord) : now64Value (v.extractLsb' 0 32) (v.extractLsb' 32 32) = v :=
  (BitVec.extractLsb'_append_extractLsb'_eq_extractLsb' (by rfl)).trans BitVec.extractLsb'_eq_self

/-- The concatenation binds the value whose two halves were read before it, the low one first. -/
theorem lookup_bindConcat_halves (n : HostName) (v : DWord) (env : HostEnv) :
    (bindConcat n "hi" "lo" (bindName "hi" (.word (v.extractLsb' 32 32))
      (bindName "lo" (.word (v.extractLsb' 0 32)) env))).lookup n = some (.dword v) := by
  rw [bindConcat, wordOf_of_lookup (lookup_bindName_same _ _ _),
    wordOf_of_lookup ((lookup_bindName_other (by decide) _ _).trans (lookup_bindName_same _ _ _))]
  simp only [now64Value_halves, lookup_bindName_same]

/-- Settles O48: the first three clauses are the turns of POLL and R; the turns of NOW64 are the write of NOW, the reads
of the two halves of TIME and their concatenation. -/
theorem pollWaitsForIdle : Obligations.PollWaitsForIdle := by
  refine ⟨fun s stmts env hr => ?_, fun c s t env env' hrun hr hturn => ?_, fun s r n stmts env hr hval => ?_,
    fun s n env hr hb => ?_⟩
  · exact ⟨_, hostTurn_poll stmts env hr, lookup_bindName_same _ _ _, fun m hm => lookup_bindName_other hm _ _⟩
  · exact ⟨.host hrun (by simp) hturn trivial, not_busy_of_hostTurn_poll hr hturn⟩
  · exact ⟨_, hostTurn_read rfl rfl hr hval, lookup_bindName_same _ _ _, fun m hm => lookup_bindName_other hm _ _⟩
  · exact ⟨_, _, _, _, hostTurn_now _ env hr hb, hostTurn_read (r := .timeLo) rfl rfl hr (.inr rfl),
      hostTurn_read (r := .timeHi) rfl rfl hr (.inr rfl), rfl, lookup_bindConcat_halves n s.cnt env⟩

end Sys2Proof.Machine
end

section
/-! PROOF. The delay engine (R70, R72 to R75): the counter in terms of true time, the poll of a running delay, and what a
step makes of one. A running delay has either its target ahead of its snapshot, or the counter's wrap between the two. -/

namespace Sys2Proof.Machine

/-! ### The counter and true time (R14, R70) -/

/-- A sum in 64 bits is the exact sum modulo 2^64. -/
theorem ofNat_toNat_add (a : DWord) (n : Nat) : BitVec.ofNat 64 (a.toNat + n) = a + BitVec.ofNat 64 n := by
  rw [BitVec.ofNat_add, BitVec.ofNat_toNat, BitVec.setWidth_eq]

theorem cnt_eq_ofNat (s : State) : s.cnt = BitVec.ofNat 64 (s.cntInit.toNat + s.T) :=
  (ofNat_toNat_add s.cntInit s.T).symm

/-- Between two states of one counter it has counted the true time that has passed. -/
theorem cnt_eq_add_of_le {a b : State} (hc : a.cntInit = b.cntInit) (h : a.T ≤ b.T) :
    b.cnt = a.cnt + BitVec.ofNat 64 (b.T - a.T) := by
  rw [State.cnt, State.cnt, hc, BitVec.add_assoc, ← BitVec.ofNat_add, Nat.add_sub_cancel' h]

/-- Settles O18: the difference of the two counters is the true time between them, and that is below 2^64. -/
theorem elapsedIsTheTrueElapsedTime : Obligations.ElapsedIsTheTrueElapsedTime := by
  intro a b hc h hlt
  rw [elapsed, cnt_eq_add_of_le hc h, BitVec.add_comm, BitVec.add_sub_cancel, BitVec.toNat_ofNat,
    Nat.mod_eq_of_lt hlt]

/-! ### The engine's start and poll (R62, R72, R73) -/

/-- A 64-bit sum is below its first summand exactly if it has wrapped. -/
theorem add_toNat_lt_iff (a b : DWord) : (a + b).toNat < a.toNat ↔ 2 ^ 64 ≤ a.toNat + b.toNat := by
  have ha := a.isLt
  have hb := b.isLt
  rw [BitVec.toNat_add]
  omega

theorem delayStart_eq (d : DWord) (s : State) : delayStart d s = { s with
    dlyM := s.cnt, dlyE := BitVec.ofNat 64 (s.cnt.toNat + d.toNat),
    dlyWrap := decide (2 ^ 64 ≤ s.cnt.toNat + d.toNat) } := by
  rw [ofNat_toNat_add, BitVec.ofNat_toNat, BitVec.setWidth_eq, ← decide_eq_decide.2 (add_toNat_lt_iff s.cnt d)]
  rfl

/-- Settles O19: the sum of a start wraps exactly if it reaches 2^64, and the poll is `delayStep_fst` and
`delayStep_snd`. -/
theorem delayEngineFollowsTheCounter : Obligations.DelayEngineFollowsTheCounter :=
  ⟨delayStart_eq, fun s => ⟨delayStep_fst s, delayStep_snd s⟩⟩

theorem microseconds_toNat (v : Word) : (microseconds v).toNat = v.toNat := by
  rw [microseconds, zext64, BitVec.toNat_setWidth_of_le (by decide)]

/-- R62: the product fits in 42 bits, so 64 lose none of it. -/
theorem milliseconds_toNat (v : Word) : (milliseconds v).toNat = v.toNat * 1000 := by
  have hv := v.isLt
  have h1000 : (1000 : DWord).toNat = 1000 := rfl
  rw [milliseconds, BitVec.toNat_mul, zext64, BitVec.toNat_setWidth_of_le (by decide), h1000]
  omega

theorem milliseconds_eq_ofNat (v : Word) : milliseconds v = BitVec.ofNat 64 (v.toNat * 1000) := by
  rw [← milliseconds_toNat, BitVec.ofNat_toNat, BitVec.setWidth_eq]

/-! ### A running delay -/

/-- A delay is running once its engine has stored the counter, the target and the wrap (R72). -/
theorem delayRunning_of_start {s : State} {start n : Nat} {d : DWord} (hT : s.T = start) (hd : d.toNat = n)
    (hb : s.busy = true) (hp : s.phase = .delay ∨ s.phase = .wake ∨ s.phase = .settle) (hm : s.dlyM = s.cnt)
    (he : s.dlyE = s.cnt + d) (hw : s.dlyWrap = (s.cnt + d).ult s.cnt) : DelayRunning start n s where
  busy := hb
  phase := hp
  bound := hd ▸ d.isLt
  begun := hT.ge
  snapshot := by rw [hm, ← hT, State.cnt]
  target := by rw [he, hm, ← hd, BitVec.ofNat_toNat, BitVec.setWidth_eq]
  wrapAhead h := by
    rw [hw, BitVec.ult_iff_toNat_lt] at h
    rwa [he, hm]
  wrapSeen h hlt := by
    rw [he, hm, ← BitVec.ult_iff_toNat_lt, ← hw, h] at hlt
    cases hlt

namespace DelayRunning

variable {start d : Nat} {s t : State}

theorem cnt_eq (h : DelayRunning start d s) : s.cnt = s.dlyM + BitVec.ofNat 64 (s.T - start) := by
  rw [h.snapshot]
  exact cnt_eq_add_of_le (a := { s with T := start }) (b := s) rfl h.begun

/-- Passing from above the snapshot to below it takes the counter at least the way to 2^64. -/
theorem wrapped_of_lt (h : DelayRunning start d s) (hc : s.cnt.toNat < s.dlyM.toNat) :
    start + (2 ^ 64 - s.dlyM.toNat) ≤ s.T := by
  have hm := s.dlyM.isLt
  have hbegun := h.begun
  rw [h.cnt_eq, BitVec.toNat_add, BitVec.toNat_ofNat] at hc
  omega

/-- R74, with one case for a target above the snapshot and one for a target past the counter's wrap. -/
theorem elapsed_of_over (h : DelayRunning start d s) (ho : DelayOver s) : start + d ≤ s.T := by
  obtain ⟨hwrap, htarget⟩ := ho
  have hm := s.dlyM.isLt
  have hbegun := h.begun
  have hd := h.bound
  have hcnt : s.cnt.toNat = (s.dlyM.toNat + (s.T - start)) % 2 ^ 64 := by
    rw [h.cnt_eq, BitVec.toNat_add, BitVec.toNat_ofNat, Nat.add_mod_mod]
  have hend : s.dlyE.toNat = (s.dlyM.toNat + d) % 2 ^ 64 := by
    rw [h.target, BitVec.toNat_add, BitVec.toNat_ofNat, Nat.add_mod_mod]
  rcases Nat.lt_or_ge s.dlyE.toNat s.dlyM.toNat with hlt | hge
  · have hpassed : start + (2 ^ 64 - s.dlyM.toNat) ≤ s.T :=
      hwrap.elim (fun hw => h.wrapSeen hw hlt) h.wrapped_of_lt
    omega
  · omega

/-- A poll that does not end the delay clears DLY_WRAP only when the counter has wrapped (R73). -/
theorem poll (h : DelayRunning start d s) :
    DelayRunning start d { s with dlyWrap := s.dlyWrap && decide (s.dlyM.toNat ≤ s.cnt.toNat) } := { h with
  wrapAhead := fun hw => h.wrapAhead (Bool.and_eq_true_iff.1 hw).1
  wrapSeen := fun hw hlt => by
    obtain hw | hw := Bool.and_eq_false_iff.1 hw
    · exact h.wrapSeen hw hlt
    · exact h.wrapped_of_lt (not_le.1 (of_decide_eq_false hw)) }

/-- The end of the wake hold starts the settle delay (R88). -/
theorem wakeReleased (h : DelayRunning start d s) : DelayRunning s.T s.kSettle.toNat (wakeReleased s) :=
  delayRunning_of_start rfl (microseconds_toNat s.kSettle) h.busy (.inr (.inr rfl)) rfl rfl rfl

theorem sequencer (h : DelayRunning start d s) (ht : t = sequencerStep s) :
    (DelayRunning start d t ∧ t.phase = s.phase) ∨
    (DelayOver s ∧ t.T = s.T ∧ (s.phase = .wake → DelayRunning s.T s.kSettle.toNat t)) := by
  obtain ⟨hq, -⟩ | ⟨-, -, e⟩ | ⟨hq, ho, e⟩ | ⟨-, ho, e⟩ | ⟨hq, ho, e⟩ | hq := sequencerStep_cases s
  · obtain hp | hp | hp := h.phase <;> simp [hp] at hq
  · exact .inl (by rw [ht, e]; exact ⟨h.poll, rfl⟩)
  · exact .inr (by rw [ht, e]; exact ⟨ho, rfl, by simp [hq]⟩)
  · exact .inr (by rw [ht, e]; exact ⟨ho, rfl, fun _ => h.wakeReleased⟩)
  · exact .inr (by rw [ht, e]; exact ⟨ho, rfl, by simp [hq]⟩)
  · obtain hp | hp | hp := h.phase <;> simp [hp, isSampling] at hq

/-- What a step makes of a running delay: it goes on, or a Sequencer step finds it over, or the block is reset. -/
theorem step (h : DelayRunning start d s) (hst : step s = .next t) :
    (DelayRunning start d t ∧ t.phase = s.phase) ∨
    (SequencerSteps s ∧ DelayOver s ∧ t.T = s.T ∧ (s.phase = .wake → DelayRunning s.T s.kSettle.toNat t)) ∨
    ReleasesReset s := by
  obtain hq | ⟨u, ins, dr, r, rfl, ⟨i, ⟨w, -, -, hb, -⟩, -⟩ | ⟨hs, ht⟩ | ⟨k, -, -, rfl⟩ | ⟨hr, -⟩⟩ :=
    step_operation hst
  · rw [hq]; exact .inl ⟨{ h with }, rfl⟩
  · simp [h.busy] at hb
  · have hu : DelayRunning start d { s with inputs := ins, draws := dr, response := r } := { h with }
    exact (hu.sequencer ht).imp_right fun he => .inl ⟨hs, he⟩
  · exact .inl ⟨{ h with
      begun := h.begun.trans (Nat.le_add_right _ _)
      wrapSeen := fun hw hlt => (h.wrapSeen hw hlt).trans (Nat.le_add_right _ _) }, rfl⟩
  · exact .inr (.inr hr)

end DelayRunning

/-- Settles O21: the accept steps start the engine, and a Sequencer step that finds the delay over has waited for it. -/
theorem delaysLastAtLeastTheirTime : Obligations.DelaysLastAtLeastTheirTime := by
  refine ⟨fun s t he => ?_, fun s t he => ?_, fun s t p he => ?_, fun start d s t h hst => ?_⟩
  · cases exec_effect he
    exact delayRunning_of_start rfl (microseconds_toNat s.arg) rfl (.inl rfl) rfl rfl rfl
  · cases exec_effect he
    exact delayRunning_of_start rfl (milliseconds_toNat s.arg) rfl (.inl rfl) rfl rfl rfl
  · cases exec_effect he
    exact delayRunning_of_start rfl (milliseconds_toNat s.cfgWakeMs) rfl (.inr (.inl rfl)) rfl rfl rfl
  · refine (h.step hst).imp_right (Or.imp_left fun ⟨hs, ho, hT, hwake⟩ => ⟨hs, ?_, hwake⟩)
    rw [hT]
    exact h.elapsed_of_over ho

end Sys2Proof.Machine
end

section
/-! PROOF. What a CMD write does (R16, R61, R64, R119), reduced to the decoder and the arm of `exec`; and the three
commands without a pin: NOW, DELAY_US and DELAY_MS (R71, R76, R77). -/

namespace Sys2Proof.Machine

/-! ### CMD writes -/

/-- The offsets of R119 are those of the guarded registers, none of which is read-only. -/
theorem guarded_of_mem : ∀ off ∈ ([0x00, 0x04, 0x24, 0x28, 0x2C, 0x30, 0x34] : List (BitVec 6)),
    ∃ r, off = regOffset r ∧ isGuarded r = true ∧ isReadOnly r = false := by
  simp only [List.forall_mem_cons]
  exact ⟨⟨.cmd, rfl, rfl, rfl⟩, ⟨.arg, rfl, rfl, rfl⟩, ⟨.cfgWakeMs, rfl, rfl, rfl⟩, ⟨.cfgSettleUs, rfl, rfl, rfl⟩,
    ⟨.cfgThreshUs, rfl, rfl, rfl⟩, ⟨.cfgTimeout, rfl, rfl, rfl⟩, ⟨.cfgCtrl, rfl, rfl, rfl⟩, by simp⟩

theorem step_write_overrun : WritesWhileBusyAreOverruns := by
  intro s off v rest h hr hb hoff
  obtain ⟨r, rfl, hg, hro⟩ := guarded_of_mem off hoff
  have hadm := admit_regOffset (s := { s with inputs := rest }) r (.write v) hr (.inr hro)
  rw [step_of_inputs h, inputStep, busAccess, hadm]
  exact if_pos (Bool.and_eq_true_iff.2 ⟨hb, hg⟩)

/-- A command's rule follows from the decoder's verdict on its words and from its arm of `exec`. -/
theorem commandRule_of_decode {op : BitVec 8} {legal : State → Word → Prop} {effect : Word → State → State → Prop}
    (i : Word → Instr) (hlegal : ∀ s w, opField w = op → legal s w → decode s.numPins w = .ok (i w))
    (hillegal : ∀ s w, opField w = op → ¬ legal s w → ∃ r, decode s.numPins w = .error r)
    (heffect : ∀ s w, decode s.numPins w = .ok (i w) → ∃ t, exec (i w) s = .next t ∧ effect w s t) :
    CommandRule op legal effect := by
  intro s w rest h hr hop
  refine ⟨fun hb => step_write_overrun s 0x00 w rest h hr hb (by decide), fun hb hl => ?_, fun hb hl => ?_⟩
  · obtain ⟨r, hd⟩ := hillegal s w hop hl
    rw [step_write_idle (r := .cmd) h hr hb rfl]
    exact commandWrite_illegal (s := { s with inputs := rest, response := .written }) hd
  · have hd := hlegal s w hop hl
    rw [stepRunsTheDecodedCommand s w rest (i w) h hr hb hd]
    exact heffect { s with inputs := rest, response := .written } w hd

/-! ### Commands without a pin (R58, R59) -/

/-- With PIN, LVL and RSV 0 the word holds the operation only. -/
theorem decode_of_legalPinless {s : State} {w : Word} {i : Instr} (hi : i ∈ [.now, .delayUs, .delayMs])
    (hop : opField w = opcodeOf i) (hl : legalPinless s w) : decode s.numPins w = .ok i := by
  obtain ⟨hrsv, hpin, hlvl⟩ := hl
  have hw : enc (opcodeOf i) 0 false = w := by rw [← hop, ← hpin, ← hlvl, enc_fields_eq hrsv]
  simp only [List.mem_cons, List.not_mem_nil, or_false] at hi
  rw [← hw]
  obtain rfl | rfl | rfl := hi
  · exact decode_encode (i := .now) rfl
  · exact decode_encode (i := .delayUs) rfl
  · exact decode_encode (i := .delayMs) rfl

theorem decode_error_of_not_legalPinless {s : State} {w : Word} (hop : opField w ∈ [0x01, 0x02, 0x03])
    (hl : ¬ legalPinless s w) : ∃ r, decode s.numPins w = .error r := by
  rw [decode_error_iff]
  by_cases hrsv : rsvField w = 0
  · by_cases hpin : pinField w = 0
    · have hlvl : lvlField w = true := eq_true_of_ne_false fun h => hl ⟨hrsv, hpin, h⟩
      have hne : opField w ≠ 0x06 := fun h => by simp [h] at hop
      exact .inr (.inr (.inr (.inr (.inr ⟨hne, hlvl⟩))))
    · exact .inr (.inr (.inr (.inl ⟨hop, hpin⟩)))
  · exact .inr (.inr (.inl hrsv))

theorem commandRule_pinless {i : Instr} (hi : i ∈ [.now, .delayUs, .delayMs]) {f : State → State}
    (hexec : ∀ s, exec i s = .next (f s)) : CommandRule (opcodeOf i) legalPinless (fun _ s t => t = f s) := by
  have hop : opcodeOf i ∈ [0x01, 0x02, 0x03] := List.mem_map_of_mem (f := opcodeOf) hi
  exact commandRule_of_decode (fun _ => i) (fun s w hw => decode_of_legalPinless hi hw)
    (fun s w hw => decode_error_of_not_legalPinless (hw ▸ hop)) fun s w _ => ⟨f s, hexec s, rfl⟩

/-! ### NOW, DELAY_US and DELAY_MS -/

theorem exec_now (s : State) :
    exec .now s = .next { s with time := BitVec.ofNat 64 (s.cntInit.toNat + s.T), done := true } := by
  rw [← cnt_eq_ofNat]
  rfl

/-- Settles O8, by the arm of NOW and the rule of the commands without a pin. -/
theorem nowStoresTheCounterInTime : Obligations.NowStoresTheCounterInTime :=
  ⟨exec_now, commandRule_pinless (i := .now) (by decide) exec_now⟩

theorem exec_delayUs (s : State) : exec .delayUs s = .next { s with
    done := false, busy := true, phase := .delay, dlyM := s.cnt, dlyE := s.cnt + s.arg.setWidth 64,
    dlyWrap := decide ((s.cnt + s.arg.setWidth 64).toNat < s.cnt.toNat) } := rfl

/-- A Sequencer step of a running DELAY_US or DELAY_MS, by what its poll answers (R76). -/
theorem step_delayPhase {s : State} {rest : List Input} (h : s.inputs = .sequencer :: rest) (hr : s.inReset = false)
    (hp : s.phase = .delay) :
    (DelayOver s → step s = .next { s with
      inputs := rest, dlyWrap := false, busy := false, done := true, phase := .idle }) ∧
    (¬ DelayOver s → step s = .next { s with
      inputs := rest, dlyWrap := s.dlyWrap && decide (s.dlyM.toNat ≤ s.cnt.toNat) }) := by
  have hstep : step s = .next (delayPhaseStep { s with inputs := rest }) := by
    rw [step_sequencer h hr, sequencerStep, hp]
  rw [hstep]
  exact ⟨fun ho => congrArg _ (delayPhaseStep_over (s := { s with inputs := rest }) ho),
    fun ho => congrArg _ (delayPhaseStep_not_over (s := { s with inputs := rest }) ho)⟩

/-- Settles O9, by the arm of DELAY_US, the polls of PHASE DELAY and the overruns of R119. -/
theorem delayUsRunsUntilTheTarget : Obligations.DelayUsRunsUntilTheTarget :=
  ⟨exec_delayUs, commandRule_pinless (i := .delayUs) (by decide) exec_delayUs, fun _ _ => step_delayPhase,
    step_write_overrun⟩

theorem exec_delayMs (s : State) : exec .delayMs s = .next { s with
    done := false, busy := true, phase := .delay, dlyM := s.cnt,
    dlyE := s.cnt + BitVec.ofNat 64 (s.arg.toNat * 1000),
    dlyWrap := decide ((s.cnt + BitVec.ofNat 64 (s.arg.toNat * 1000)).toNat < s.cnt.toNat) } := by
  rw [← milliseconds_eq_ofNat]
  rfl

/-- Settles O10: the arm of DELAY_MS with the exact product of ARG and 1000. -/
theorem delayMsIsDelayUsTimes1000 : Obligations.DelayMsIsDelayUsTimes1000 := by
  refine ⟨exec_delayMs, fun v => ⟨milliseconds_toNat v, ?_⟩,
    commandRule_pinless (i := .delayMs) (by decide) exec_delayMs, step_write_overrun⟩
  have hv := v.isLt
  omega

end Sys2Proof.Machine
end

section
/-! PROOF. The end of a delay and of a running operation (R11, R69, R75, R78): a poll in the blind spot changes nothing, a
delay that is sampled at every microsecond is over when the counter stands at its target, and BUSY falls only with it. -/

namespace Sys2Proof.Machine

/-! ### The blind spot (R75) -/

/-- In the three delay phases a poll that does not end the delay is all that a Sequencer step does (R76, R88, R89). -/
theorem sequencerStep_not_over {s : State} (hp : s.phase = .delay ∨ s.phase = .wake ∨ s.phase = .settle)
    (ho : ¬ DelayOver s) :
    sequencerStep s = { s with dlyWrap := s.dlyWrap && decide (s.dlyM.toNat ≤ s.cnt.toNat) } := by
  obtain hp | hp | hp := hp
  · rw [← delayPhaseStep_not_over ho, sequencerStep, hp]
  · rw [← wakeStep_not_over ho, sequencerStep, hp]
  · rw [← settleStep_not_over ho, sequencerStep, hp]

theorem step_blindSpot {s : State} {rest : List Input} (hin : s.inputs = .sequencer :: rest) (hr : s.inReset = false)
    (hp : s.phase = .delay ∨ s.phase = .wake ∨ s.phase = .settle) (hw : s.dlyWrap = false)
    (hc : s.cnt.toNat < s.dlyM.toNat) (hle : s.dlyM.toNat ≤ s.dlyE.toNat) :
    step s = .next { s with inputs := rest } := by
  have hbefore : ¬ DelayOver { s with inputs := rest } := fun ho => (hc.trans_le hle).not_ge ho.2
  rw [step_sequencer hin hr, sequencerStep_not_over (s := { s with inputs := rest }) hp hbefore]
  simp only [hw, Bool.false_and]

/-! ### Sampling at every microsecond (R11, R69) -/

section
variable {e : Nat → State} (he : Execution e) (hn : NeverReset e) (hs : SamplesEveryMicrosecond e)
include he hn

include hs in
theorem succ_T_of_samples (n : Nat) :
    (e (n + 1)).T = (e n).T ∨ (ClockSteps (e n) ∧ (e (n + 1)).T = (e n).T + 1) := by
  obtain ⟨t, ht, hnext⟩ := he n
  rw [hnext]
  obtain ⟨hT, -⟩ | ⟨k, hk, hr, hT, -⟩ | ⟨hr, -⟩ := step_T ht
  · exact .inl hT
  · have hc : ClockSteps (e n) := ⟨⟨k, hk⟩, hr⟩
    obtain ⟨hone, -⟩ := hs n hc
    rw [hone] at hk
    cases hk
    exact .inr ⟨hc, hT⟩
  · exact absurd hr (hn n)

include hs in
/-- True time passes every bound one microsecond at a time, so the Sequencer steps at each. -/
theorem exists_sequencerSteps_at (hf : ClockFair e) {b : Nat} (hb : (e 0).T < b) :
    ∃ m, SequencerSteps (e m) ∧ (e m).T = b := by
  obtain ⟨n, hreached⟩ := T_unbounded he hf hn b
  induction n with
  | zero => exact absurd hb hreached.not_gt
  | succ n ih =>
    rcases Nat.lt_or_ge (e n).T b with hlt | hge
    · obtain hT | ⟨hc, hT⟩ := succ_T_of_samples he hn hs n
      · omega
      · obtain ⟨-, m, -, hseq, hm⟩ := hs n hc
        exact ⟨m, hseq, by omega⟩
    · exact ih hge

/-- A delay that no Sequencer step finds over runs for ever. -/
theorem delayRunning_of_never_over {start d : Nat} (h0 : DelayRunning start d (e 0))
    (hno : ∀ n, DelayRunning start d (e n) → SequencerSteps (e n) → ¬ DelayOver (e n)) (n : Nat) :
    DelayRunning start d (e n) := by
  induction n with
  | zero => exact h0
  | succ n ih =>
    obtain ⟨t, ht, hnext⟩ := he n
    rw [hnext]
    obtain ⟨h, -⟩ | ⟨hseq, ho, -⟩ | hr := ih.step ht
    · exact { h with }
    · exact absurd ho (hno n ih hseq)
    · exact absurd hr (hn n)

end

/-- Whenever the counter stands at the target, at whichever of its rounds, a poll ends the delay. -/
theorem DelayRunning.over_at_target {start d k : Nat} {s : State} (h : DelayRunning start d s)
    (hT : s.T = start + d + 2 ^ 64 * k) : DelayOver s := by
  have hpassed : s.T - start = d + 2 ^ 64 * k := by omega
  have hround : BitVec.ofNat 64 (d + 2 ^ 64 * k) = BitVec.ofNat 64 d :=
    BitVec.eq_of_toNat_eq (by simp only [BitVec.toNat_ofNat, Nat.add_mul_mod_self_left])
  have hc : s.cnt = s.dlyE := by rw [h.cnt_eq, h.target, hpassed, hround]
  refine ⟨?_, by rw [hc]⟩
  cases hw : s.dlyWrap with
  | false => exact .inl rfl
  | true => exact .inr (hc ▸ h.wrapAhead hw)

/-- Settles O20: the blind spot is a poll that is not over, and a delay that ran for ever would be sampled at a true time
still to come at which the counter stands at the target. -/
theorem delayBlindSpotGoesOn : Obligations.DelayBlindSpotGoesOn := by
  refine ⟨fun s rest => step_blindSpot, fun e start d he hf hn hs h0 => ?_⟩
  by_contra hnever
  have hruns : ∀ n, DelayRunning start d (e n) :=
    delayRunning_of_never_over he hn h0 fun n h hseq ho => hnever ⟨n, h, hseq, ho⟩
  have hahead : (e 0).T < start + d + 2 ^ 64 * ((e 0).T + 1) := by omega
  obtain ⟨m, hseq, hT⟩ := exists_sequencerSteps_at he hn hs hf hahead
  exact hnever ⟨m, hruns m, hseq, (hruns m).over_at_target hT⟩

/-! ### The end of an operation (R78) -/

/-- Settles O22: of the four things a step can do to BUSY and DONE only a Sequencer step's completion and a reset end an
operation, and the invariant gives the phase of a block that is not busy. -/
theorem onlyCompletionOrResetEndsAnOperation : Obligations.OnlyCompletionOrResetEndsAnOperation := by
  intro s t h hb hst hidle
  obtain ⟨hkeep, -⟩ | ⟨i, ⟨w, -, -, hfree, -⟩, -⟩ | ⟨hseq, -, -, hd⟩ | ⟨hr, -⟩ := step_flags hst
  · simp [hkeep, hb] at hidle
  · simp [hb] at hfree
  · have ht : BlockInv t := everyStepKeepsTheInvariant s t h hst
    exact .inl ⟨hseq, hd, not_not.1 fun hp => by simp [ht.busyPhase.2 hp] at hidle⟩
  · exact .inr hr

end Sys2Proof.Machine
end

section
/-! PROOF. The commands of a pin (R58, R59, R79 to R85): their words, the three commands that write the bits of a pin,
SET_OUTPUT, SET_INPUT and WRITE_LEVEL, and the sample of READ_LEVEL. -/

namespace Sys2Proof.Machine

/-! ### The words of the pin commands (R58, R59) -/

/-- A word with RSV = 0 and the fields of a command the block has decodes to that command. -/
theorem decode_of_fields {n : Nat} {w : Word} {i : Instr} (hrsv : rsvField w = 0) (hop : opField w = opcodeOf i)
    (hpin : pinField w = pinOf i) (hlvl : lvlField w = lvlOf i) (hi : i.wellFormed n = true) :
    decode n w = .ok i := by
  rw [← enc_fields_eq hrsv, hop, hpin, hlvl]
  exact decode_encode hi

theorem decode_error_of_pin {n : Nat} {w : Word} (hop : opField w ∈ [0x04, 0x05, 0x06, 0x07, 0x08])
    (hl : ¬ (rsvField w = 0 ∧ (pinField w).toNat < n)) : ∃ r, decode n w = .error r := by
  rw [decode_error_iff]
  by_cases hrsv : rsvField w = 0
  · have hpin : n ≤ (pinField w).toNat := not_lt.1 fun hp => hl ⟨hrsv, hp⟩
    exact .inr (.inr (.inr (.inr (.inl ⟨hop, hpin⟩))))
  · exact .inr (.inr (.inl hrsv))

theorem decode_error_of_level {n : Nat} {w : Word} (hop : opField w ≠ 0x06) (hlvl : lvlField w = true) :
    ∃ r, decode n w = .error r :=
  decode_error_iff.2 (.inr (.inr (.inr (.inr (.inr ⟨hop, hlvl⟩)))))

/-- The operands of the pin commands without a level. -/
theorem pinCommand_operands {i : BitVec 8 → Instr} (hi : i ∈ [.setOutput, .setInput, .readLevel, .read])
    (p : BitVec 8) : (opcodeOf (i p) ∈ [0x04, 0x05, 0x06, 0x07, 0x08] ∧ opcodeOf (i p) ≠ 0x06) ∧
      pinOf (i p) = p ∧ lvlOf (i p) = false ∧ ∀ n, (i p).wellFormed n = pinExists n p := by
  simp only [List.mem_cons, List.not_mem_nil, or_false] at hi
  obtain rfl | rfl | rfl | rfl := hi <;> exact ⟨by simp [opcodeOf], rfl, rfl, fun _ => rfl⟩

/-- The rule of a pin command without a level follows from its effect on a pin of the block. -/
theorem commandRule_onPin {op : BitVec 8} {i : BitVec 8 → Instr} {effect : Word → State → State → Prop}
    (hi : i ∈ [.setOutput, .setInput, .readLevel, .read]) (hop : ∀ p, opcodeOf (i p) = op)
    (heffect : ∀ s w, (pinField w).toNat < s.numPins →
      ∃ t, exec (i (pinField w)) s = .next t ∧ effect w s t) :
    CommandRule op legalOnPin effect := by
  refine commandRule_of_decode (fun w => i (pinField w)) (fun s w hw hl => ?_) (fun s w hw hl => ?_)
    fun s w hd => ?_
  · obtain ⟨-, hpin, hlvl, hwf⟩ := pinCommand_operands hi (pinField w)
    obtain ⟨hrsv, hlow, hp⟩ := hl
    exact decode_of_fields hrsv (hw.trans (hop _).symm) hpin.symm (hlow.trans hlvl.symm)
      ((hwf _).trans (decide_eq_true hp))
  · obtain ⟨⟨hmem, hne⟩, -⟩ := pinCommand_operands hi (pinField w)
    rw [hop, ← hw] at hmem hne
    cases hlow : lvlField w with
    | false => exact decode_error_of_pin hmem fun ⟨hrsv, hp⟩ => hl ⟨hrsv, hlow, hp⟩
    | true => exact decode_error_of_level hne hlow
  · obtain ⟨-, -, -, hwf⟩ := pinCommand_operands hi (pinField w)
    exact heffect s w (of_decide_eq_true ((hwf _).symm.trans (decode_wellFormed hd)))

/-! ### Commands that write a pin (R79, R82 to R84) -/

theorem drivenLevel_eq (p : BitVec 8) (s : State) :
    drivenLevel p s = if (s.pin p).dir = .output then some (s.pin p).out else none := by
  rw [drivenLevel]
  split <;> simp [*]

/-- What a command that completes in its accept step after changing the bits of a pin of the block does. -/
theorem pinWrite_effect {i : Instr} {p : BitVec 8} {f : Pin → Pin} {s : State}
    (hexec : exec i s = .next (completeAtAccept (modifyPin p f s))) (hp : p.toNat < s.numPins) :
    ∃ t, exec i s = .next t ∧ t = { s with pins := t.pins, done := true } ∧ OnlyPinChanged p (f (s.pin p)) s t :=
  ⟨_, hexec, rfl, modifyPin_numPins p f s, modifyPin_pin_same f hp, fun _ hq => modifyPin_pin_other s f hq⟩

/-- The level on a changed pin's wire, by the pin's new bits (R79). -/
theorem OnlyPinChanged.drives {p : BitVec 8} {x : Pin} {s t : State} (h : OnlyPinChanged p x s t) :
    drivenLevel p t = if x.dir = .output then some x.out else none := by
  obtain ⟨-, hx, -⟩ := h
  rw [drivenLevel_eq, hx]

/-- Settles O11, by the change of pin `p` to an output. -/
theorem setOutputMakesThePinAnOutput : Obligations.SetOutputMakesThePinAnOutput := by
  refine ⟨fun s p hp => ?_, commandRule_onPin (i := .setOutput) (by simp) (fun _ => rfl)
    fun s w => pinWrite_effect (f := makeOutput) rfl⟩
  obtain ⟨t, ht, hframe, hpin⟩ := pinWrite_effect (i := .setOutput p) (f := makeOutput) rfl hp
  exact ⟨t, ht, hframe, hpin, hpin.drives⟩

/-- Settles O12, by the change of pin `p` to an input. -/
theorem setInputMakesThePinAnInput : Obligations.SetInputMakesThePinAnInput := by
  refine ⟨fun s p hp => ?_, commandRule_onPin (i := .setInput) (by simp) (fun _ => rfl)
    fun s w => pinWrite_effect (f := makeInput) rfl⟩
  obtain ⟨t, ht, hframe, hpin⟩ := pinWrite_effect (i := .setInput p) (f := makeInput) rfl hp
  exact ⟨t, ht, hframe, hpin, hpin.drives⟩

/-- Settles O13, by the change of the latch of pin `p`; its words may have LVL = 1. -/
theorem writeLevelSetsTheLatch : Obligations.WriteLevelSetsTheLatch := by
  refine ⟨fun s p l hp => ?_, commandRule_of_decode (fun w => .writeLevel (pinField w) (lvlField w))
    (fun s w hop hl => ?_) (fun s w hop => decode_error_of_pin (by simp [hop])) fun s w hd => ?_⟩
  · obtain ⟨t, ht, hframe, hpin⟩ := pinWrite_effect (i := .writeLevel p l) (f := setLatch l) rfl hp
    exact ⟨t, ht, hframe, hpin, hpin.drives⟩
  · obtain ⟨hrsv, hp⟩ := hl
    exact decode_of_fields hrsv hop rfl rfl (decide_eq_true hp)
  · exact pinWrite_effect (f := setLatch (lvlField w)) rfl (of_decide_eq_true (decode_wellFormed hd))

/-! ### The sample of READ_LEVEL (R79, R85) -/

theorem exec_readLevel (p : BitVec 8) (s : State) : exec (.readLevel p) s =
    .next { (senseLevel p s).2 with level := (senseLevel p s).1, done := true } := rfl

theorem senseLevel_input {p : BitVec 8} {s : State} (h : (s.pin p).dir = .input) :
    senseLevel p s = readLine p s := by
  rw [senseLevel, h]

theorem senseLevel_output {p : BitVec 8} {s : State} (h : (s.pin p).dir = .output) :
    senseLevel p s = (Config.freeOutputLevel s.draws p, { s with draws := s.draws + 1 }) := by
  rw [senseLevel, h]

theorem exec_readLevel_listed {p : BitVec 8} {s : State} {l : Level} {ls : List Level}
    (hdir : (s.pin p).dir = .input) (hl : s.lineIn = l :: ls) :
    exec (.readLevel p) s = .next { s with level := l, lineIn := ls, done := true } := by
  rw [exec_readLevel, senseLevel_input hdir, readLine_cons p hl]

/-- With no listed answer, and for an output pin, the sample is a draw. -/
theorem exec_readLevel_drawn {p : BitVec 8} {s : State} (h : s.lineIn = [] ∨ (s.pin p).dir = .output) :
    ∃ l, exec (.readLevel p) s = .next { s with level := l, draws := s.draws + 1, done := true } := by
  cases hdir : (s.pin p).dir with
  | input =>
    have hl : s.lineIn = [] := h.resolve_right (by simp [hdir])
    rw [exec_readLevel, senseLevel_input hdir, readLine_nil p hl]
    exact ⟨_, rfl⟩
  | output =>
    rw [exec_readLevel, senseLevel_output hdir]
    exact ⟨_, rfl⟩

/-- Settles O14: the sample is the listed answer or a draw. -/
theorem readLevelSamplesTheLine : Obligations.ReadLevelSamplesTheLine := by
  refine ⟨fun s p l ls => exec_readLevel_listed, fun s p => exec_readLevel_drawn,
    commandRule_onPin (i := .readLevel) (by simp) (fun _ => rfl) fun s w _ => ?_⟩
  exact ⟨_, exec_readLevel (pinField w) s,
    fun hdir l ls hl => Host.Outcome.next.inj (exec_readLevel_listed hdir hl),
    fun h => (exec_readLevel_drawn h).imp fun _ => Host.Outcome.next.inj⟩

/-- Settles O15: an input pin's LEVEL is the Line agent's answer, which the premise says is 1. -/
theorem idleHighInputReadsHigh : Obligations.IdleHighInputReadsHigh := by
  intro s p t hdir hpu hidle ht
  rw [exec_readLevel, senseLevel_input hdir] at ht
  cases ht
  exact hidle hpu

end Sys2Proof.Machine
end

section
/-! PROOF. The rules of the Sequencer's step of a READ (R88 to R98): a step as the Sequencer's, the ends of the two
delay phases, the samples of a wait, and DATA_HIGH's exit in its two cases. -/

namespace Sys2Proof.Machine

/-! ### A step as the Sequencer's -/

/-- The Sequencer takes its step in the state that has used up the input. -/
theorem exists_sequencerStep_of_step {s t : State} (h : SequencerSteps s) (hst : step s = .next t) :
    ∃ ins d, t = sequencerStep { s with inputs := ins, draws := d } := by
  rw [step_of_sequencerSteps h, nextInput_snd] at hst
  cases hst
  exact ⟨_, _, rfl⟩

theorem step_eq_of_sequencerStep {s t : State} {rest : List Input} (h : s.inputs = .sequencer :: rest)
    (hr : s.inReset = false) (ht : sequencerStep { s with inputs := rest } = t) : step s = .next t :=
  (step_sequencer h hr).trans (congrArg Host.Outcome.next ht)

theorem step_eq_of_waitStep {s t : State} {rest : List Input} (h : s.inputs = .sequencer :: rest)
    (hr : s.inReset = false) (hs : isSampling s.phase = true)
    (ht : waitStep (timeoutCause s.phase) (exitOf s.phase) { s with inputs := rest } = t) : step s = .next t :=
  step_eq_of_sequencerStep h hr ((sequencerStep_sampling (s := { s with inputs := rest }) hs).trans ht)

/-! ### The ends of WAKE and SETTLE (R88, R89) -/

theorem sequencerStep_wake_over {s : State} (hp : s.phase = .wake) (ho : DelayOver s) :
    sequencerStep s = wakeReleased s := by
  rw [sequencerStep, hp]
  exact wakeStep_over ho

theorem sequencerStep_settle_over {s : State} (hp : s.phase = .settle) (ho : DelayOver s) : sequencerStep s =
    startWait .ackLow true { s with dlyWrap := false, crit := s.crit || s.kCrit } := by
  rw [sequencerStep, hp]
  exact settleStep_over ho

/-! ### The samples of a wait (R91) -/

theorem waitStep_exit {s : State} {l : Level} {ls : List Level} (k : Cause) (exit : DWord → State → State)
    (h0 : s.tcnt ≠ 0) (hl : s.lineIn = l :: ls) (hne : l ≠ s.waitLvl) :
    waitStep k exit s = exit s.cnt (sampled ls s.draws s) :=
  (waitStep_sample k exit h0 hl).trans (if_pos hne)

theorem waitStep_waiting {s : State} {ls : List Level} (k : Cause) (exit : DWord → State → State)
    (h0 : s.tcnt ≠ 0) (hl : s.lineIn = s.waitLvl :: ls) :
    waitStep k exit s = { sampled ls s.draws s with tcnt := s.tcnt - 1 } :=
  (waitStep_sample k exit h0 hl).trans (if_neg (not_not.2 rfl))

/-- Without a listed answer the sample is that of the drawn one, put on the list. -/
theorem waitStep_unlisted {s : State} (k : Cause) (exit : DWord → State → State) (h0 : s.tcnt ≠ 0)
    (hl : s.lineIn = []) : waitStep k exit s = waitStep k exit { s with
      lineIn := [Config.freeLevel s.draws s.pinCur s.T], draws := s.draws + 1 } := by
  have hsame : readLine s.pinCur s = readLine s.pinCur { s with
      lineIn := [Config.freeLevel s.draws s.pinCur s.T], draws := s.draws + 1 } := by
    rw [readLine_nil _ hl, readLine_cons _ rfl, ← hl]
  rw [waitStep, waitStep, if_neg h0, if_neg h0, hsame]

/-! ### The two exits of DATA_HIGH (R95, R98) -/

theorem exitDataHigh_nextBit {s : State} (h : s.bitidx.toNat < 39) :
    exitDataHigh s.cnt s = startWait .dataLow false (bitReceived s) :=
  (exitDataHigh_eq s.cnt s).trans (if_pos (Nat.succ_lt_succ h))

theorem exitDataHigh_lastBit {s : State} (h : 39 ≤ s.bitidx.toNat) :
    exitDataHigh s.cnt s = finish (bitReceived s) :=
  (exitDataHigh_eq s.cnt s).trans (if_neg (Nat.succ_le_succ h).not_gt)

/-- `finish` with the checksum and the comparison in plain numbers (R98, R106, R107). -/
theorem finish_eq (s : State) {sum : Nat}
    (hsum : sum = (s.frame.b0.toNat + s.frame.b1.toNat + s.frame.b2.toNat + s.frame.b3.toNat) % 256) :
    finish s = { s with
      crit := false, csumCalc := BitVec.ofNat 8 sum,
      result := if s.frame.b4.toNat = sum then .ok else .checksumError, cause := .none,
      busy := false, done := true, phase := .idle } := by
  have hcsum : checksum8 s.frame.b0 s.frame.b1 s.frame.b2 s.frame.b3 = BitVec.ofNat 8 sum := by
    rw [hsum, ← checksum8_toNat, BitVec.ofNat_toNat, BitVec.setWidth_eq]
  have hnat : (BitVec.ofNat 8 sum).toNat = sum := by rw [← hcsum, checksum8_toNat, hsum]
  simp only [finish, hcsum, validate_eq, hnat]
  rfl

end Sys2Proof.Machine
end

section
/-! PROOF. The waits of a READ (R90, R91, R99, R101): what a Sequencer step makes of a wait, how the waits are counted,
and the budget of samples that each step of a sampling phase lowers. -/

namespace Sys2Proof.Machine

/-! ### The count of the waits -/

/-- A READ has no more waits than the 82 of R101, because a data bit is sampled only for i = 0..39. -/
theorem BlockInv.waitsStarted_le {s : State} (h : BlockInv s) : waitsStarted s ≤ 82 := by
  have hdata := h.bitidxData
  rw [waitsStarted]
  cases hp : s.phase <;> simp [hp] at hdata ⊢ <;> omega

/-- What a Sequencer step makes of a wait: one sample fewer, the next wait, the timeout, or the end of the last wait. -/
theorem sequencerStep_wait {s t : State} (h : BlockInv s) (hs : isSampling s.phase = true) (ht : t = sequencerStep s) :
    (t.phase = s.phase ∧ t.busy = true ∧ waitsStarted t = waitsStarted s ∧ t.tcnt.toNat + 1 = s.tcnt.toNat) ∨
    (isSampling t.phase = true ∧ t.busy = true ∧ waitsStarted t = waitsStarted s + 1 ∧ t.tcnt = s.kTimeout) ∨
    (t.busy = false ∧ t.result = .timeoutError ∧ s.tcnt = 0 ∧ waitsStarted s ≤ 82) ∨
    (t.busy = false ∧ t.result ≠ .timeoutError ∧ waitsStarted s = 82 ∧ t.bitidx = 40) := by
  have hb : s.busy = true := (h.readInv (readRunning_of_sampling hs)).running.1
  obtain ⟨h0, e⟩ | ⟨h0, ls, d, e | ⟨hp, e⟩ | ⟨hp, e⟩ | ⟨hp, e⟩ | ⟨hp, hlt, e⟩ | ⟨hp, hle, e⟩⟩ := sampling_cases hs <;>
    rw [ht, e]
  · exact .inr (.inr (.inl ⟨rfl, rfl, h0, h.waitsStarted_le⟩))
  · exact .inl ⟨rfl, hb, rfl, tcnt_pred h0⟩
  · exact .inr (.inl ⟨rfl, hb, by simp [waitsStarted, hp], rfl⟩)
  · have hfirst : s.bitidx = 0 := h.bitidxStart (by simp [hp])
    exact .inr (.inl ⟨rfl, hb, by simp [waitsStarted, hp, hfirst], rfl⟩)
  · exact .inr (.inl ⟨rfl, hb, by simp only [waitsStarted, hp]; omega, rfl⟩)
  · have hcount : (s.bitidx + 1).toNat = s.bitidx.toNat + 1 := bitidx_succ (by omega)
    exact .inr (.inl ⟨rfl, hb, by simp only [waitsStarted, hp, hcount]; omega, rfl⟩)
  · have hlast : s.bitidx = 39 :=
      BitVec.eq_of_toNat_eq (Nat.le_antisymm (Nat.le_of_lt_succ (h.bitidxData (.inr hp))) hle)
    have hcount : s.bitidx + 1 = 40 := by rw [hlast]; rfl
    exact .inr (.inr (.inr ⟨rfl, validate_ne_timeoutError _ _, by simp [waitsStarted, hp, hlast], hcount⟩))

/-- Settles O32, by what the Sequencer's step makes of a wait. -/
theorem aCompleteReadHas82Waits : Obligations.ACompleteReadHas82Waits := by
  intro s t h hseq hs hst
  obtain ⟨ins, d, ht⟩ := exists_sequencerStep_of_step hseq hst
  have hwait := sequencerStep_wait (h.served ins d s.response) hs ht
  exact hwait

/-! ### The budget of the sampling phases -/

/-- The first wait starts with the whole budget. -/
theorem samplingBudget_ackLow {s : State} (hp : s.phase = .ackLow) (hc : s.tcnt = s.kTimeout) :
    samplingBudget s = 82 * (s.kTimeout.toNat + 1) := by
  simp only [samplingBudget, waitsStarted, hp, hc, Config.nwaits]
  omega

/-- A Sequencer step of a sampling phase ends the READ or lowers the budget: by one sample of the wait, or by what the
ended wait has left over. -/
theorem sequencerStep_samplingBudget_lt {s t : State} (h : BlockInv s) (hs : isSampling s.phase = true)
    (ht : t = sequencerStep s) :
    t.busy = false ∨ (isSampling t.phase = true ∧ samplingBudget t < samplingBudget s) := by
  have hk : t.kTimeout = s.kTimeout := by rw [sequencerStep_frame ht]
  have hle : waitsStarted t ≤ 82 := (h.sequencer ht).waitsStarted_le
  obtain ⟨hp, -, hw, hc⟩ | ⟨hp, -, hw, hc⟩ | ⟨hb, -⟩ | ⟨hb, -⟩ := sequencerStep_wait h hs ht
  · refine .inr ⟨hp ▸ hs, ?_⟩
    simp only [samplingBudget, hk, hw]
    omega
  · refine .inr ⟨hp, ?_⟩
    obtain ⟨m, hm⟩ : ∃ m, 82 = waitsStarted s + 1 + m := Nat.exists_eq_add_of_le (hw ▸ hle)
    have hbefore : 82 - waitsStarted s = m + 1 := by omega
    have hafter : 82 - (waitsStarted s + 1) = m := by omega
    simp only [samplingBudget, hk, hw, hc, Config.nwaits, hbefore, hafter, Nat.succ_mul]
    omega
  · exact .inl hb
  · exact .inl hb

/-- By induction on the budget. -/
theorem exists_sequencerStep_iterate_ends {s : State} (h : BlockInv s) (hs : isSampling s.phase = true) :
    ∃ n, n ≤ samplingBudget s ∧ (sequencerStep^[n] s).busy = false := by
  induction hn : samplingBudget s using Nat.strong_induction_on generalizing s with
  | _ b ih =>
    obtain hb | ⟨hs', hlt⟩ := sequencerStep_samplingBudget_lt h hs rfl
    · exact ⟨1, by rw [← hn, samplingBudget]; omega, hb⟩
    · obtain ⟨n, hle, hb⟩ := ih _ (hn ▸ hlt) (h.sequencer rfl) hs' rfl
      exact ⟨n + 1, by omega, hb⟩

/-! ### The steps of a busy block -/

/-- What a step makes of the wait of a busy block: nothing, unless it is the Sequencer's or a reset. -/
theorem step_busy_wait {s t : State} (hb : s.busy = true) (hst : step s = .next t) :
    (t.phase = s.phase ∧ samplingBudget t = samplingBudget s) ∨
    (SequencerSteps s ∧ ∃ ins d r, t = sequencerStep { s with inputs := ins, draws := d, response := r }) ∨
    (ReleasesReset s ∧ t.phase = .idle) := by
  obtain hq | ⟨u, ins, d, r, rfl, ⟨i, ⟨w, -, -, hfree, -⟩, -⟩ | ⟨hseq, ht⟩ | ⟨k, -, -, rfl⟩ | ⟨hr, rfl⟩⟩ :=
    step_operation hst
  · rw [hq]; exact .inl ⟨rfl, rfl⟩
  · simp [hb] at hfree
  · exact .inr (.inl ⟨hseq, ins, d, r, ht⟩)
  · exact .inl ⟨rfl, rfl⟩
  · exact .inr (.inr ⟨hr, rfl⟩)

/-- The step that ends SETTLE starts the first wait, with the whole budget. -/
theorem samplingBudget_of_settle {s t : State} (hp : s.phase = .settle) (ht : t = sequencerStep s)
    (hs : isSampling t.phase = true) : samplingBudget t = 82 * (s.kTimeout.toNat + 1) := by
  by_cases ho : DelayOver s
  · rw [ht, sequencerStep_settle_over hp ho]
    exact samplingBudget_ackLow rfl rfl
  · rw [ht, sequencerStep_not_over (.inr (.inr hp)) ho] at hs
    simp [hp, isSampling] at hs

/-- Settles O33: the wait's budget is whole when SETTLE ends, kept by the other agents, lowered by the Sequencer, and so
used up after that many of its steps. -/
theorem samplingIsBoundedBy82Budgets : Obligations.SamplingIsBoundedBy82Budgets := by
  refine ⟨fun s t h hst hp hs => ?_, fun s t h hst hs hne hnr => ?_, fun s t h hseq hs hst => ?_,
    fun s h hs => exists_sequencerStep_iterate_ends h hs⟩
  · obtain ⟨hp', -⟩ | ⟨-, ins, d, r, ht⟩ | ⟨-, hp'⟩ := step_busy_wait (h.busyPhase.2 (by simp [hp])) hst
    · simp [hp', hp, isSampling] at hs
    · exact samplingBudget_of_settle (s := { s with inputs := ins, draws := d, response := r }) hp ht hs
    · simp [hp', isSampling] at hs
  · have hb : s.busy = true := (h.readInv (readRunning_of_sampling hs)).running.1
    obtain ⟨hp', hbudget⟩ | ⟨⟨hi, -⟩, -⟩ | ⟨hr, -⟩ := step_busy_wait hb hst
    · exact ⟨hp' ▸ hs, hbudget⟩
    · exact absurd hi hne
    · exact absurd hr hnr
  · obtain ⟨ins, d, ht⟩ := exists_sequencerStep_of_step hseq hst
    have hlower := sequencerStep_samplingBudget_lt (h.served ins d s.response) hs ht
    exact hlower

end Sys2Proof.Machine
end

section
/-! PROOF. No earlier operation affects a READ (R103): `SameRead` is a relation between two blocks that READ's accept
step establishes and that every step with the same input and the same line answer keeps. -/

namespace Sys2Proof.Machine

/-! ### The accept step -/

/-- READ's accept step writes all that `SameRead` speaks of from the pin, the configuration and the counter (R87). -/
theorem sameRead_readAccepted {a b : State} {p : BitVec 8} (ha : a.inReset = false) (hb : b.inReset = false)
    (hpa : p.toNat < a.numPins) (hpb : p.toNat < b.numPins) (hcnt : a.cnt = b.cnt) (hcrit : a.crit = b.crit)
    (hconfig : a.cfgWakeMs = b.cfgWakeMs ∧ a.cfgSettleUs = b.cfgSettleUs ∧ a.cfgThreshUs = b.cfgThreshUs ∧
      a.cfgTimeout = b.cfgTimeout ∧ a.critEn = b.critEn) : SameRead (readAccepted p a) (readAccepted p b) := by
  obtain ⟨hna, -, hxa⟩ := read_pins (p := p) (s := a) (t := readAccepted p a) rfl
  obtain ⟨hnb, -, hxb⟩ := read_pins (p := p) (s := b) (t := readAccepted p b) rfl
  exact {
    busyA := rfl
    busyB := rfl
    noReset := ⟨ha, hb⟩
    phase := rfl
    doneFlag := rfl
    counter := hcnt
    bits := ⟨rfl, rfl, rfl, hcrit⟩
    config := hconfig
    pin := ⟨rfl, (hxa hpa).trans (hxb hpb).symm, hna ▸ hpa, hnb ▸ hpb⟩
    delay := fun _ => by
      obtain ⟨hwake, -⟩ := hconfig
      simp only [readAccepted, hcnt, hwake, and_self]
    wait := fun hs => by simp [readAccepted, isSampling] at hs
    edge := fun he => by simp [readAccepted] at he
    outcome := fun ho => by simp [readAccepted, readRunning] at ho }

theorem isSampling_of_delay {q : Phase} (h : q = .wake ∨ q = .settle) : isSampling q = false := by
  obtain rfl | rfl := h <;> rfl

namespace SameRead

variable {a b : State}

theorem running (h : SameRead a b) (hr : readRunning a.phase = true) : a.busy = true ∧ b.busy = true :=
  ⟨h.busyA.trans hr, h.busyB.trans (h.phase ▸ hr)⟩

/-! ### The delay phases -/

theorem delayOver_iff (h : SameRead a b) (hp : a.phase = .wake ∨ a.phase = .settle) : DelayOver a ↔ DelayOver b := by
  obtain ⟨hm, he, hw⟩ := h.delay hp
  simp only [DelayOver, hm, he, hw, h.counter]

theorem poll (h : SameRead a b) (hp : a.phase = .wake ∨ a.phase = .settle) :
    SameRead { a with dlyWrap := a.dlyWrap && decide (a.dlyM.toNat ≤ a.cnt.toNat) }
      { b with dlyWrap := b.dlyWrap && decide (b.dlyM.toNat ≤ b.cnt.toNat) } := by
  obtain ⟨hm, he, hw⟩ := h.delay hp
  exact { h with delay := fun _ => ⟨hm, he, by simp only [hm, hw, h.counter]⟩ }

/-- The end of the wake hold leaves the pin in one state and starts the settle delay (R88). -/
theorem wakeReleased (h : SameRead a b) (hp : a.phase = .wake) :
    SameRead (wakeReleased a) (wakeReleased b) := by
  obtain ⟨hcur, -, hpa, hpb⟩ := h.pin
  obtain ⟨-, hsettle, -⟩ := h.config
  obtain ⟨hna, -, hxa⟩ := wake_pins (s := a) (t := Machine.wakeReleased a) rfl
  obtain ⟨hnb, -, hxb⟩ := wake_pins (s := b) (t := Machine.wakeReleased b) rfl
  obtain ⟨hba, hbb⟩ := h.running (hp ▸ rfl)
  exact { h with
    busyA := hba
    busyB := hbb
    phase := rfl
    pin := ⟨hcur, (hxa hpa).trans (hxb hpb).symm, hna ▸ hpa, hnb ▸ hpb⟩
    delay := fun _ => by simp only [Machine.wakeReleased, h.counter, hsettle, and_self]
    wait := fun hs => by simp [Machine.wakeReleased, isSampling] at hs
    edge := fun he => by simp [Machine.wakeReleased] at he
    outcome := fun ho => by simp [Machine.wakeReleased, readRunning] at ho }

/-! ### The waits -/

/-- A new wait reads nothing an earlier one has left, but for the edge's counter value in DATA_HIGH (R90). -/
theorem startWait {q : Phase} (h : SameRead a b) (hr : readRunning a.phase = true) (hq : isSampling q = true)
    (hedge : q = .dataHigh → a.t0 = b.t0) (l : Level) : SameRead (startWait q l a) (startWait q l b) := by
  obtain ⟨-, -, -, htimeout, -⟩ := h.config
  obtain ⟨hba, hbb⟩ := h.running hr
  have hrun : readRunning q = true := readRunning_of_sampling hq
  exact { h with
    busyA := hba.trans hrun.symm
    busyB := hbb.trans hrun.symm
    phase := rfl
    delay := fun hd => absurd (hq.symm.trans (isSampling_of_delay hd)) (by decide)
    wait := fun _ => ⟨rfl, htimeout⟩
    edge := hedge
    outcome := fun ho => by simp [hrun] at ho }

/-- The end of SETTLE opens the critical section and starts the first wait (R89). -/
theorem settleEnd (h : SameRead a b) (hp : a.phase = .settle) :
    SameRead (Machine.startWait .ackLow true { a with dlyWrap := false, crit := a.crit || a.kCrit })
      (Machine.startWait .ackLow true { b with dlyWrap := false, crit := b.crit || b.kCrit }) := by
  obtain ⟨hbit, hframe, hcsum, hcrit⟩ := h.bits
  obtain ⟨-, -, -, -, hkCrit⟩ := h.config
  obtain ⟨hm, he, -⟩ := h.delay (.inr hp)
  have hopen : SameRead { a with dlyWrap := false, crit := a.crit || a.kCrit }
      { b with dlyWrap := false, crit := b.crit || b.kCrit } := { h with
    bits := ⟨hbit, hframe, hcsum, by simp only [hcrit, hkCrit]⟩
    delay := fun _ => ⟨hm, he, rfl⟩ }
  exact hopen.startWait (hp ▸ rfl) rfl (by simp) true

theorem sampled (h : SameRead a b) (la da lb db) : SameRead (sampled la da a) (sampled lb db b) := { h with }

theorem waiting (h : SameRead a b) (hs : isSampling a.phase = true) :
    SameRead { a with tcnt := a.tcnt - 1 } { b with tcnt := b.tcnt - 1 } := by
  obtain ⟨hl, hc⟩ := h.wait hs
  exact { h with wait := fun _ => ⟨hl, by simp only [hc]⟩ }

/-- A READ's completion, with the same frame and outcome on both sides. -/
theorem complete (h : SameRead a b) (hresult : a.result = b.result) (hcause : a.cause = b.cause) :
    SameRead (complete a) (complete b) := { h with
  busyA := rfl
  busyB := rfl
  phase := rfl
  doneFlag := rfl
  delay := fun hd => by simp at hd
  wait := fun hs => by simp [isSampling] at hs
  edge := fun he => by simp at he
  outcome := fun _ => ⟨hresult, hcause⟩ }

theorem timeout (h : SameRead a b) (k : Cause) : SameRead (timeout k a) (timeout k b) := by
  obtain ⟨hbit, -⟩ := h.bits
  exact complete (a := { clearFrame { a with crit := false } with result := .timeoutError, cause := k })
    (b := { clearFrame { b with crit := false } with result := .timeoutError, cause := k })
    { h with bits := ⟨hbit, rfl, rfl, rfl⟩, outcome := fun _ => ⟨rfl, rfl⟩ } rfl rfl

/-- The verdict is the same on two equal frames (R98). -/
theorem finish (h : SameRead a b) : SameRead (finish a) (finish b) := by
  obtain ⟨hbit, hframe, -⟩ := h.bits
  have hcsum : checksum8 a.frame.b0 a.frame.b1 a.frame.b2 a.frame.b3 =
      checksum8 b.frame.b0 b.frame.b1 b.frame.b2 b.frame.b3 := by rw [hframe]
  have hresult : (Machine.finish a).result = (Machine.finish b).result := by
    simp only [Machine.finish, complete_result, hframe]
  exact {
    complete (a := { a with result := .ok, cause := .none }) (b := { b with result := .ok, cause := .none })
      { h with outcome := fun _ => ⟨rfl, rfl⟩ } rfl rfl with
    bits := ⟨hbit, hframe, hcsum, rfl⟩
    outcome := fun _ => ⟨hresult, rfl⟩ }

/-- The exit sample of DATA_HIGH decides one bit on both sides (R95, R96). -/
theorem bitReceived (h : SameRead a b) (hp : a.phase = .dataHigh) : SameRead (bitReceived a) (bitReceived b) := by
  obtain ⟨hbit, hframe, hcsum, hcrit⟩ := h.bits
  obtain ⟨-, -, hthresh, -⟩ := h.config
  have hdecided : decideBit (elapsed a.t0 a.cnt) a.kThresh = decideBit (elapsed b.t0 b.cnt) b.kThresh := by
    rw [h.edge hp, h.counter, hthresh]
  exact { h with
    bits := ⟨by simp only [Machine.bitReceived, hbit], by simp only [Machine.bitReceived, hframe, hbit, hdecided],
      hcsum, hcrit⟩ }

theorem exitDataHigh (h : SameRead a b) (hp : a.phase = .dataHigh) :
    SameRead (exitDataHigh a.cnt a) (exitDataHigh b.cnt b) := by
  obtain ⟨hbit, -⟩ := h.bits
  have hbits := h.bitReceived hp
  rcases Nat.lt_or_ge a.bitidx.toNat 39 with hlt | hge
  · rw [exitDataHigh_nextBit hlt, exitDataHigh_nextBit (hbit ▸ hlt)]
    exact hbits.startWait (hp ▸ rfl) (q := .dataLow) rfl (by simp) false
  · rw [exitDataHigh_lastBit hge, exitDataHigh_lastBit (hbit ▸ hge)]
    exact hbits.finish

theorem exitOf (h : SameRead a b) (hs : isSampling a.phase = true) :
    SameRead (exitOf a.phase a.cnt a) (exitOf a.phase b.cnt b) := by
  have hr := readRunning_of_sampling hs
  cases hp : a.phase <;> simp only [hp, isSampling, reduceCtorEq] at hs
  case ackLow => exact h.startWait hr rfl (by simp) false
  case ackHigh => exact h.startWait hr rfl (by simp) false
  case dataLow =>
    have hedge : SameRead { a with t0 := a.cnt } { b with t0 := b.cnt } := { h with edge := fun _ => h.counter }
    exact hedge.startWait hr rfl (fun _ => h.counter) true
  case dataHigh => exact h.exitDataHigh hp

/-- With one answer of the line the two waits time out, exit or go on together (R91). -/
theorem waitStep {l : Level} {la lb : List Level} (h : SameRead a b) (hs : isSampling a.phase = true)
    (hla : a.lineIn = l :: la) (hlb : b.lineIn = l :: lb) (k : Cause) :
    SameRead (waitStep k (Machine.exitOf a.phase) a) (waitStep k (Machine.exitOf a.phase) b) := by
  obtain ⟨hl, hc⟩ := h.wait hs
  have hsampled := h.sampled la a.draws lb b.draws
  by_cases h0 : a.tcnt = 0
  · rw [waitStep_timeout k _ h0, waitStep_timeout k _ (hc ▸ h0)]
    exact h.timeout k
  · by_cases hwait : l = a.waitLvl
    · rw [waitStep_waiting k _ h0 (hwait ▸ hla), waitStep_waiting k _ (hc ▸ h0) (hl ▸ hwait ▸ hlb)]
      exact hsampled.waiting hs
    · rw [waitStep_exit k _ h0 hla hwait, waitStep_exit k _ (hc ▸ h0) hlb (hl ▸ hwait)]
      exact hsampled.exitOf hs

/-! ### Every step -/

/-- A Sequencer step of a READ, by phase. -/
theorem sequencerStep {l : Level} {la lb : List Level} (h : SameRead a b) (hr : readRunning a.phase = true)
    (hla : a.lineIn = l :: la) (hlb : b.lineIn = l :: lb) :
    SameRead (sequencerStep a) (sequencerStep b) := by
  obtain ⟨hp, -⟩ | ⟨hp, ho, ea⟩ | ⟨hp, -⟩ | ⟨hp, ho, ea⟩ | ⟨hp, ho, ea⟩ | hs := sequencerStep_cases a
  · simp [hp, readRunning] at hr
  · have hp' : a.phase = .wake ∨ a.phase = .settle := hp.resolve_left fun hd => by simp [hd, readRunning] at hr
    rw [ea, sequencerStep_not_over (h.phase ▸ hp) fun hb => ho ((h.delayOver_iff hp').2 hb)]
    exact h.poll hp'
  · simp [hp, readRunning] at hr
  · have hb : DelayOver b := (h.delayOver_iff (.inl hp)).1 ho
    rw [ea, sequencerStep_wake_over (h.phase ▸ hp) hb]
    exact h.wakeReleased hp
  · have hb : DelayOver b := (h.delayOver_iff (.inr hp)).1 ho
    rw [ea, sequencerStep_settle_over (h.phase ▸ hp) hb]
    exact h.settleEnd hp
  · rw [sequencerStep_sampling hs, sequencerStep_sampling (h.phase ▸ hs), ← h.phase]
    exact h.waitStep hs hla hlb _

theorem clock (h : SameRead a b) (k : Nat) : SameRead (clockStep k a) (clockStep k b) := { h with
  counter := (cnt_add a (k + 1)).trans ((congrArg (· + _) h.counter).trans (cnt_add b (k + 1)).symm) }

/-- A Host access to the two busy blocks touches nothing of the READ (R119). -/
theorem bus {x : BusAccess} {a' b' : State} (h : SameRead a b) (hr : readRunning a.phase = true)
    (ha : busAccess x a = .next a') (hb : busAccess x b = .next b') : SameRead a' b' := by
  obtain ⟨hba, hbb⟩ := h.running hr
  obtain ⟨_, _, _, _, _, rfl⟩ := busAccess_busy hba ha
  obtain ⟨_, _, _, _, _, rfl⟩ := busAccess_busy hbb hb
  exact { h with }

theorem inputStep {i : Input} {l : Level} {la lb : List Level} {a' b' : State} (h : SameRead a b)
    (hr : readRunning a.phase = true) (hla : a.lineIn = l :: la) (hlb : b.lineIn = l :: lb)
    (hi : ∀ r, i ≠ .resetLine r) (ha : inputStep i a = .next a') (hb : inputStep i b = .next b') :
    SameRead a' b' := by
  obtain ⟨hna, hnb⟩ := h.noReset
  cases i with
  | bus x => exact h.bus hr ha hb
  | sequencer =>
    simp only [Machine.inputStep, hna, hnb] at ha hb
    cases ha
    cases hb
    exact h.sequencerStep hr hla hlb
  | clock k =>
    simp only [Machine.inputStep, hna, hnb] at ha hb
    cases ha
    cases hb
    exact h.clock k
  | resetLine r => exact absurd rfl (hi r)

end SameRead

/-- Settles O34: the accept step makes the two blocks agree, and a step with one input and one line answer keeps
that. -/
theorem noResidualStateAffectsARead : Obligations.NoResidualStateAffectsARead := by
  refine ⟨fun a b p a' b' hia hib hba hbb hna hnb hpa hpb hcnt hw hs ht hk hc ha hb => ?_,
    fun a b i l ra rb la lb a' b' h hr hia hib hla hlb hi ha hb => ?_⟩
  · have hcrit {s : State} (h : BlockInv s) (hb : s.busy = false) : s.crit = false := by
      have hidle : s.phase = .idle := by simpa [hb] using h.busyPhase
      simp [h.critWindow, hidle, isSampling]
    cases exec_effect ha
    cases exec_effect hb
    exact sameRead_readAccepted hna hnb hpa hpb hcnt ((hcrit hia hba).trans (hcrit hib hbb).symm) ⟨hw, hs, ht, hk, hc⟩
  · rw [step_of_inputs hia] at ha
    rw [step_of_inputs hib] at hb
    have h' : SameRead { a with inputs := ra } { b with inputs := rb } := { h with }
    exact h'.inputStep hr hla hlb hi ha hb

end Sys2Proof.Machine
end

section
/-! PROOF. The bits of a READ (R95 to R97): packing a bit writes it at its place in the frame and keeps the others, so
after 40 bits each byte is the number its eight bits write, the first received the most significant. -/

namespace Sys2Proof.Machine

/-- Settles O30, by the unsigned comparison of the width with the zero-extended threshold. -/
theorem bitIsOneIffWidthExceedsThreshold : Obligations.BitIsOneIffWidthExceedsThreshold := by
  intro width thresh
  rw [decideBit_eq, decide_eq_true_iff, gt_iff_lt]

/-! ### The packed bit and the others -/

theorem orBit_same (b : Byte) (bit : Bool) {j : Nat} (hj : j < 8) :
    (orBit b j bit).getLsbD (7 - j) = (b.getLsbD (7 - j) || bit) := by
  have hbit : ((BitVec.ofBool bit).setWidth 8 <<< (7 - j)).getLsbD (7 - j) = bit := by
    have hpos : 7 - j < 8 := by omega
    simp [hpos]
  rw [orBit, BitVec.getLsbD_or, hbit]

theorem frameBit_packBit_same (f : Frame) {k : Nat} (bit : Bool) (hk : k < 40) :
    frameBit (packBit f k bit) k = (frameBit f k || bit) := by
  have hq : k / 8 < 5 := by omega
  have hj : k % 8 < 8 := by omega
  unfold frameBit packBit
  generalize k / 8 = q at hq
  interval_cases q <;> exact orBit_same _ bit hj

/-- A frame has 40 bits. -/
theorem frameBit_of_ge (f : Frame) {i : Nat} (hi : 40 ≤ i) : frameBit f i = false := by
  obtain ⟨q, hq⟩ : ∃ q, i / 8 = q + 5 := ⟨i / 8 - 5, by omega⟩
  rw [frameBit, hq]
  rfl

/-- `frameBit_packBit_other` for the indices past the frame too. -/
theorem frameBit_packBit_of_ne (f : Frame) {i k : Nat} (bit : Bool) (hk : k < 40) (hne : i ≠ k) :
    frameBit (packBit f k bit) i = frameBit f i := by
  rcases Nat.lt_or_ge i 40 with hi | hi
  · exact frameBit_packBit_other f bit hi hk hne
  · rw [frameBit_of_ge _ hi, frameBit_of_ge _ hi]

/-! ### The whole frame -/

/-- The bits packed so far, by induction on their number. -/
theorem frameBit_packBits (bits : Nat → Bool) {n i : Nat} (hn : n ≤ 40) (hi : i < 40) :
    frameBit (packBits bits n) i = (decide (i < n) && bits i) := by
  induction n with
  | zero => simp [packBits, frameBit_zero hi]
  | succ n ih =>
    have hbefore := ih (by omega)
    rw [packBits]
    rcases eq_or_ne i n with rfl | hne
    · rw [frameBit_packBit_same _ _ hi, hbefore]
      simp
    · have hlt : i < n + 1 ↔ i < n := by omega
      rw [frameBit_packBit_of_ne _ _ hn hne, hbefore, decide_eq_decide.2 hlt]

/-- Byte `k` of the frame; past the five bytes there is none (R28). -/
def frameByte (f : Frame) : Nat → Byte
  | 0 => f.b0
  | 1 => f.b1
  | 2 => f.b2
  | 3 => f.b3
  | 4 => f.b4
  | _ => 0

theorem frameByte_getLsbD (f : Frame) {k j : Nat} (hk : k < 5) (hj : j < 8) :
    (frameByte f k).getLsbD (7 - j) = frameBit f (8 * k + j) := by
  have hdiv : (8 * k + j) / 8 = k := by omega
  have hmod : (8 * k + j) % 8 = j := by omega
  rw [frameBit, hdiv, hmod]
  interval_cases k <;> rfl

/-- A byte as the sum of its bits, the most significant first. -/
theorem byte_toNat_eq_sum (b : Byte) (bit : Nat → Bool) (h : ∀ j, j < 8 → b.getLsbD (7 - j) = bit j) :
    b.toNat = (List.range 8).foldl (fun n j => n + (bit j).toNat * 2 ^ (7 - j)) 0 := by
  have hdigit : ∀ j, j < 8 → (bit j).toNat = b.toNat / 2 ^ (7 - j) % 2 := fun j hj => by
    rw [← h j hj, BitVec.getLsbD, Nat.toNat_testBit]
  have hb := b.isLt
  have hrange : List.range 8 = [0, 1, 2, 3, 4, 5, 6, 7] := rfl
  simp only [hrange, List.foldl_cons, List.foldl_nil, hdigit, Nat.reduceLT]
  omega

theorem frameByte_packBits (bits : Nat → Bool) {k : Nat} (hk : k < 5) : (frameByte (packBits bits 40) k).toNat =
    (List.range 8).foldl (fun n j => n + (bits (8 * k + j)).toNat * 2 ^ (7 - j)) 0 := by
  refine byte_toNat_eq_sum _ (fun j => bits (8 * k + j)) fun j hj => ?_
  have hi : 8 * k + j < 40 := by omega
  rw [frameByte_getLsbD _ hk hj, frameBit_packBits bits le_rfl hi, decide_eq_true hi, Bool.true_and]

/-- Settles O31, by the sum of each of the five bytes. -/
theorem frameIsPackedMostSignificantBitFirst : Obligations.FrameIsPackedMostSignificantBitFirst := fun bits =>
  ⟨frameByte_packBits bits (k := 0) (by decide), frameByte_packBits bits (k := 1) (by decide),
    frameByte_packBits bits (k := 2) (by decide), frameByte_packBits bits (k := 3) (by decide),
    frameByte_packBits bits (k := 4) (by decide)⟩

end Sys2Proof.Machine
end

section
/-! PROOF. The steps of a READ (R86 to R99), each as one update of the state: the accept step, the two delay phases, and
the timeout, the waiting sample and the exit sample of a wait. -/

namespace Sys2Proof.Machine

/-! ### The accept step (R86, R87) -/

theorem readAccepted_effect {s : State} {p : BitVec 8} (hp : p.toNat < s.numPins) :
    ∃ t, exec (.read p) s = .next t ∧
      t = { s with
        kWake := s.cfgWakeMs, kSettle := s.cfgSettleUs, kThresh := s.cfgThreshUs, kTimeout := s.cfgTimeout,
        kCrit := s.critEn, pinCur := p, frame := ⟨0, 0, 0, 0, 0⟩, csumCalc := 0, last := s.cnt, bitidx := 0,
        done := false, busy := true, pins := t.pins, phase := .wake, dlyM := s.cnt,
        dlyE := s.cnt + BitVec.ofNat 64 (s.cfgWakeMs.toNat * 1000),
        dlyWrap := decide ((s.cnt + BitVec.ofNat 64 (s.cfgWakeMs.toNat * 1000)).toNat < s.cnt.toNat) } ∧
      OnlyPinChanged p ⟨.output, false, false, true⟩ s t := by
  obtain ⟨hn, hother, hpin⟩ := read_pins (p := p) (s := s) (t := readAccepted p s) rfl
  refine ⟨readAccepted p s, execRead_readAccepted p s, ?_, hn, hpin hp, hother⟩
  rw [← milliseconds_eq_ofNat]
  rfl

/-- Settles O16, by READ's accept step as one update and the rule of the pin commands. -/
theorem readAcceptStartsTheHandshake : Obligations.ReadAcceptStartsTheHandshake :=
  ⟨fun _ _ => readAccepted_effect, commandRule_onPin (i := .read) (by simp) (fun _ => rfl)
    fun s w _ => ⟨_, execRead_readAccepted (pinField w) s, execRead_readAccepted (pinField w) s⟩⟩

/-! ### The delay phases (R88, R89) -/

/-- In a delay phase a step whose poll does not end the delay (R73). -/
theorem step_not_over {s : State} {rest : List Input} (h : s.inputs = .sequencer :: rest) (hr : s.inReset = false)
    (hp : s.phase = .delay ∨ s.phase = .wake ∨ s.phase = .settle) (ho : ¬ DelayOver s) : step s = .next { s with
      inputs := rest, dlyWrap := s.dlyWrap && decide (s.dlyM.toNat ≤ s.cnt.toNat) } :=
  step_eq_of_sequencerStep h hr (sequencerStep_not_over hp ho)

/-- Settles O23: the poll that ends the hold leaves `wakeReleased`, whose pins are those of `wake_pins`. -/
theorem wakeReleasesThePinAfterTheHold : Obligations.WakeReleasesThePinAfterTheHold := by
  intro s rest h hr hp hpin
  refine ⟨step_not_over h hr (.inr (.inl hp)), fun ho => ⟨wakeReleased { s with inputs := rest }, ?_, rfl, ?_⟩⟩
  · exact step_eq_of_sequencerStep h hr (sequencerStep_wake_over hp ho)
  · obtain ⟨hn, hother, hcur⟩ := wake_pins (s := s) (t := wakeReleased { s with inputs := rest }) rfl
    exact ⟨hn, hcur hpin, hother⟩

/-- Settles O24, by the two answers of SETTLE's poll. -/
theorem settleStartsTheAcknowledgeWait : Obligations.SettleStartsTheAcknowledgeWait := by
  intro s rest h hr hp
  exact ⟨step_not_over h hr (.inr (.inr hp)),
    fun ho => step_eq_of_sequencerStep h hr (sequencerStep_settle_over hp ho)⟩

/-! ### The waits (R90 to R95, R99) -/

/-- Settles O25: a wait with no sample left is its timeout, which leaves the pins as the sampling phases hold them. -/
theorem exhaustedWaitTimesOut : Obligations.ExhaustedWaitTimesOut := by
  intro s rest h hr hs h0
  exact ⟨timeout (timeoutCause s.phase) { s with inputs := rest },
    step_eq_of_waitStep h hr hs (waitStep_timeout _ _ h0), rfl, fun hinv => hinv.inputPin (.inr hs)⟩

/-- Settles O26, by the listed sample that goes on waiting, and by the drawn sample. -/
theorem waitingSampleDecrementsTheCounter : Obligations.WaitingSampleDecrementsTheCounter := by
  intro s rest h hr hs h0
  refine ⟨fun ls hl => ?_, fun hl => ⟨Config.freeLevel s.draws s.pinCur s.T, ?_⟩⟩
  · exact step_eq_of_waitStep h hr hs (waitStep_waiting _ _ h0 hl)
  · rw [step_eq_of_waitStep h hr hs (waitStep_unlisted _ _ h0 hl)]
    symm
    exact step_eq_of_waitStep h hr hs rfl

section
variable {s : State} {rest : List Input} {ls : List Level} (h : s.inputs = .sequencer :: rest) (hr : s.inReset = false)
  (h0 : s.tcnt ≠ 0) (hl : s.lineIn = (!s.waitLvl) :: ls)
include h hr h0 hl

/-- A listed sample that differs from the level waited while takes the phase's exit. -/
theorem step_exit {q : Phase} (hp : s.phase = q) (hs : isSampling q = true) :
    step s = .next (exitOf q s.cnt { s with inputs := rest, lineIn := ls }) := by
  subst hp
  exact step_eq_of_waitStep h hr hs (waitStep_exit _ _ h0 hl (Bool.not_ne_self s.waitLvl))

theorem step_exit_nextBit (hp : s.phase = .dataHigh) (hb : s.bitidx.toNat < 39) :
    step s = .next (startWait .dataLow false (bitReceived { s with inputs := rest, lineIn := ls })) :=
  (step_exit h hr h0 hl hp rfl).trans (congrArg Host.Outcome.next (exitDataHigh_nextBit hb))

theorem step_exit_lastBit (hp : s.phase = .dataHigh) (hb : 39 ≤ s.bitidx.toNat) :
    step s = .next (finish (bitReceived { s with inputs := rest, lineIn := ls })) :=
  (step_exit h hr h0 hl hp rfl).trans (congrArg Host.Outcome.next (exitDataHigh_lastBit hb))

end

/-- Settles O27, by the exit of each phase. -/
theorem exitSampleStartsTheNextWait : Obligations.ExitSampleStartsTheNextWait := fun _ _ _ h hr h0 hl =>
  ⟨fun hp => step_exit h hr h0 hl hp rfl, fun hp => step_exit h hr h0 hl hp rfl,
    fun hp => step_exit h hr h0 hl hp rfl⟩

/-- Settles O28, by the exit of DATA_HIGH and the bit that it packs. -/
theorem dataBitIsDecidedAndPacked : Obligations.DataBitIsDecidedAndPacked := by
  intro s rest ls h hr h0 hl hp hb
  have hindex : s.bitidx.toNat < 40 := by omega
  refine ⟨_, step_exit_nextBit h hr h0 hl hp hb, rfl, fun i hi => frameBit_packBit_of_ne _ _ hindex hi,
    fun hclear => ?_⟩
  have hpacked := frameBit_packBit_same s.frame (decideBit (elapsed s.t0 s.cnt) s.kThresh) hindex
  rw [hclear, Bool.false_or] at hpacked
  exact (Bool.eq_iff_iff.1 hpacked).trans (bitIsOneIffWidthExceedsThreshold _ _)

/-- Settles O29, by the exit of DATA_HIGH and the verdict on the frame that holds the last bit. -/
theorem lastBitCompletesTheRead : Obligations.LastBitCompletesTheRead := by
  intro s rest ls h hr h0 hl hp hb f sum
  have hlast : bitReceived { s with inputs := rest, lineIn := ls } = { s with
      inputs := rest, lineIn := ls, frame := f, bitidx := 40 } := by
    simp only [bitReceived, hb, decideBit_eq]
    rfl
  rw [step_exit_lastBit h hr h0 hl hp (by simp [hb]), hlast, finish_eq _ rfl]

/-! ### What a Sequencer step leaves alone (R103) -/

/-- Settles O35, by the frame of the Sequencer's step and its pins. -/
theorem sequencerLeavesTheRestAlone : Obligations.SequencerLeavesTheRestAlone := by
  intro s t hseq hst
  obtain ⟨ins, d, ht⟩ := exists_sequencerStep_of_step hseq hst
  obtain ⟨hn, hpins⟩ := sequencerStep_pins ht
  have hother : ∀ q, q ≠ s.pinCur → t.pin q = s.pin q := fun q hq => (hpins q).resolve_right fun ⟨_, hcur⟩ => hq hcur
  rw [sequencerStep_frame ht]
  exact ⟨rfl, rfl, rfl, rfl, rfl, rfl, rfl, rfl, rfl, rfl, rfl, rfl, rfl, rfl, rfl, rfl, rfl, rfl, rfl, rfl, rfl, hn,
    rfl, hother⟩

end Sys2Proof.Machine
end

section
/-! PROOF. The checksum validator (R106, R107): the checksum of the frame as a plain sum, and the verdict on it. -/

namespace Sys2Proof.Machine

/-- R107: the verdict of `Finish`, compared in plain numbers. -/
theorem finish_result (s : State) : (finish s).result =
    if s.frame.b4.toNat = (s.frame.b0.toNat + s.frame.b1.toNat + s.frame.b2.toNat + s.frame.b3.toNat) % 256 then .ok
    else .checksumError := by
  rw [finish_eq s rfl]

/-- Settles O36, by the sum of `Checksum8` in plain numbers and the verdict on either side of the comparison. -/
theorem checksumLaw : Obligations.ChecksumLaw := by
  refine ⟨checksum8_toNat, fun s => ⟨fun heq => ?_, fun hne => ?_, rfl, rfl⟩⟩
  · rw [finish_result, if_pos heq]
  · rw [finish_result, if_neg hne]

end Sys2Proof.Machine
end

section
/-! PROOF. The host's Reading (R110 to R115): the operands of a frame are in the ranges of R111 and R112, so R114's
tolerance holds of them. -/

namespace Sys2Proof.Machine

/-! ### The operands of a frame -/

variable (f : Frame)

/-- R111: "an unsigned integer in 0..65535". -/
theorem humidityRaw_le : humidityRaw f ≤ 65535 := by
  have h0 := f.b0.isLt
  have h1 := f.b1.isLt
  unfold humidityRaw
  omega

/-- The mask of R112 in plain numbers. -/
theorem temperatureMagnitude_eq : temperatureMagnitude f = f.b2.toNat % 128 * 256 + f.b3.toNat := by
  have hmask : (f.b2 &&& 0x7F).toNat = f.b2.toNat % 128 := Nat.and_two_pow_sub_one_eq_mod f.b2.toNat 7
  rw [temperatureMagnitude, hmask]

/-- R112: "in 0..32767 tenths". -/
theorem temperatureMagnitude_le : temperatureMagnitude f ≤ 32767 := by
  have h3 := f.b3.isLt
  rw [temperatureMagnitude_eq]
  omega

/-- The sign bit of R112 in plain numbers. -/
theorem temperatureNegative_eq : temperatureNegative f = decide (128 ≤ f.b2.toNat) :=
  BitVec.msb_eq_decide f.b2

variable {f} in
/-- R112 with the sign bit clear: the magnitude is all of b2 and b3. -/
theorem exactTemperature_of_lt (h : f.b2.toNat < 128) (offset : Rat) :
    exactTemperature (temperatureNegative f) (temperatureMagnitude f) offset =
      ((f.b2.toNat * 256 + f.b3.toNat : Nat) : Rat) / 10 + offset := by
  have hsign : temperatureNegative f = false := by simp [temperatureNegative_eq, h]
  rw [hsign, temperatureMagnitude_eq, Nat.mod_eq_of_lt h]
  rfl

variable {f} in
/-- R112 with the sign bit set: the magnitude is what is left without that bit, negated before the offset. -/
theorem exactTemperature_of_ge (h : 128 ≤ f.b2.toNat) (offset : Rat) :
    exactTemperature (temperatureNegative f) (temperatureMagnitude f) offset =
      -((((f.b2.toNat - 128) * 256 + f.b3.toNat : Nat) : Rat) / 10) + offset := by
  have hsign : temperatureNegative f = true := by simp [temperatureNegative_eq, h]
  have hmod : f.b2.toNat % 128 = f.b2.toNat - 128 := by
    have h2 := f.b2.isLt
    omega
  rw [hsign, temperatureMagnitude_eq, hmod]
  rfl

/-! ### The Reading of a frame -/

variable {F : Type} (fmt : FloatFormat F) (cal : Calibration F) {result : Result}

/-- R110. -/
@[simp] theorem hostReading_status (result : Result) : (hostReading fmt cal result f).status = result := by
  cases result <;> rfl

/-- R113. -/
theorem hostReading_timeoutError :
    hostReading fmt cal .timeoutError f = ⟨fmt.sentinel, fmt.sentinel, .timeoutError⟩ := rfl

/-- R111 and R112: the frame is converted the same way whether its checksum is good or bad. -/
theorem hostReading_of_ne_timeoutError (h : result ≠ .timeoutError) :
    hostReading fmt cal result f = ⟨fmt.convH (humidityRaw f) cal.hOffset,
      fmt.convT (temperatureNegative f) (temperatureMagnitude f) cal.tOffset, result⟩ := by
  cases result
  case timeoutError => exact absurd rfl h
  case ok | checksumError => rfl

variable {fmt cal}

/-- R111, R114. -/
theorem hostReading_humidity_within (htol : WithinTolerance fmt cal) (h : result ≠ .timeoutError) :
    |fmt.toRat (hostReading fmt cal result f).humidity - exactHumidity (humidityRaw f) (fmt.toRat cal.hOffset)| ≤
      1 / 100 := by
  rw [hostReading_of_ne_timeoutError f fmt cal h]
  exact htol.1 _ (humidityRaw_le f)

/-- R112, R114. -/
theorem hostReading_temperature_within (htol : WithinTolerance fmt cal) (h : result ≠ .timeoutError) :
    |fmt.toRat (hostReading fmt cal result f).temperature -
      exactTemperature (temperatureNegative f) (temperatureMagnitude f) (fmt.toRat cal.tOffset)| ≤ 1 / 100 := by
  rw [hostReading_of_ne_timeoutError f fmt cal h]
  exact htol.2 _ _ (temperatureMagnitude_le f)

/-- Settles O60, by the tolerance at the operands of the frame, with the exact temperature on either side of the
sign. -/
theorem readingIsConvertedFromTheFrame : Obligations.ReadingIsConvertedFromTheFrame := by
  refine fun F fmt => ⟨fun cal result f htol => ⟨hostReading_status f fmt cal result, ?timeout, fun hres => ?frame⟩,
    ⟨fmt.toRat_zero, fmt.toRat_zero, fun _ => rfl⟩, fun _ _ _ => ⟨rfl, rfl⟩⟩
  case timeout =>
    rintro rfl
    rw [hostReading_timeoutError]
    exact ⟨rfl, rfl⟩
  case frame =>
    have htemp := hostReading_temperature_within f htol hres
    refine ⟨hostReading_humidity_within f htol hres, fun hpos => ?_, fun hneg => ?_⟩
    · rwa [exactTemperature_of_lt hpos] at htemp
    · rwa [exactTemperature_of_ge hneg] at htemp

end Sys2Proof.Machine
end

section
/-! PROOF. The faults of the block (R116 to R122): every step answers a next state, and an access adds to FAULTS no more
than the one fault that comes first in R122's order. -/

namespace Sys2Proof.Machine

/-! ### Every step answers a next state (R116) -/

theorem exec_answers_next (i : Instr) (s : State) : ∃ t, exec i s = .next t := by
  cases i <;> exact ⟨_, rfl⟩

theorem commandWrite_answers_next (w : Word) (s : State) : ∃ t, commandWrite w s = .next t := by
  cases hd : decode s.numPins w with
  | error r => exact ⟨_, commandWrite_illegal hd⟩
  | ok i => rw [commandWrite_legal hd]; exact exec_answers_next i s

theorem registerWrite_answers_next (r : Reg) (v : Word) (s : State) : ∃ t, registerWrite r v s = .next t := by
  cases r with
  | cmd => exact commandWrite_answers_next v s
  | _ => exact ⟨_, rfl⟩

theorem busWrite_answers_next (off : BitVec 6) (r : Reg) (v : Word) (s : State) :
    ∃ t, busWrite off r v s = .next t := by
  simp only [busWrite]
  split
  case isTrue => exact ⟨_, rfl⟩
  case isFalse => exact registerWrite_answers_next r v _

theorem busAccess_answers_next (a : BusAccess) (s : State) : ∃ t, busAccess a s = .next t := by
  unfold busAccess
  split
  · exact ⟨_, rfl⟩
  · split
    · exact ⟨_, rfl⟩
    · exact busWrite_answers_next _ _ _ s

theorem inputStep_answers_next (i : Input) (s : State) : ∃ t, inputStep i s = .next t := by
  cases i with
  | bus a => exact busAccess_answers_next a s
  | sequencer | clock k | resetLine b => exact ⟨_, rfl⟩

/-- Settles O7: every input answers a next state; a well-formed command decodes, so its write is its accept step, which
leaves FAULTS and the bus's answer alone and sets BUSY or DONE. -/
theorem theBlockNeverStops : Obligations.TheBlockNeverStops := by
  refine ⟨fun s => inputStep_answers_next _ _, fun s i rest h hr hb hi => ?_⟩
  have hstep := stepRunsTheDecodedCommand s _ rest i h hr hb (decode_encode hi)
  obtain ⟨t, he⟩ := exec_answers_next i { s with inputs := rest, response := .written }
  obtain ⟨hbusy, hdone⟩ := exec_flags he hb
  refine ⟨t, hstep.trans he, by rw [exec_frame he], by rw [exec_frame he], ?_⟩
  rw [hbusy, hdone]
  cases isImmediate i
  · exact .inr rfl
  · exact .inl rfl

/-! ### Overruns (R119) -/

/-- Settles O42: the guarded writes are overruns, and the write rule of STATUS holds whatever BUSY is. -/
theorem overrunsAreDiscarded : Obligations.OverrunsAreDiscarded :=
  ⟨step_write_overrun, fun s v rest h hr _ => ⟨_, statusWriteClearsOnlyStickyBits.1 s v rest h hr, rfl, rfl⟩⟩

/-! ### The order of R122 -/

theorem write_of_not_isBusError {s : State} {a : BusAccess} {v : Word} (h : ¬ IsBusError s a) (hop : a.op = .write v) :
    s.inReset = false ∧ a = ⟨a.off, .word, .write v⟩ := by
  obtain ⟨r, hadm⟩ := Option.ne_none_iff_exists'.1 (admitted_of_not_isBusError h)
  obtain ⟨hres, hwidth, -, -⟩ := admit_some hadm
  refine ⟨hres, ?_⟩
  rw [← hwidth, ← hop]

/-- STATUS is the only register that takes writes and is not guarded (R44, R119). -/
theorem regOffset_guarded {r : Reg} (hro : isReadOnly r = false) (hs : regOffset r ≠ 0x08) :
    regOffset r ∈ ([0x00, 0x04, 0x24, 0x28, 0x2C, 0x30, 0x34] : List (BitVec 6)) := by
  cases r <;> revert hro hs <;> decide

theorem regOffset_ne_status {r : Reg} (hg : isGuarded r = true) : regOffset r ≠ 0x08 := by
  cases r <;> revert hg <;> decide

variable {s t : State} {a : BusAccess} {rest : List Input} {v : Word}

theorem faults_of_busError (h : s.inputs = .bus a :: rest) (hst : step s = .next t) (hbad : IsBusError s a) :
    t.faults = (raiseFault (.busError (busAddress a) a.width (isWrite a.op)) s).faults := by
  rw [step_of_inputs h, inputStep, busAccess_refused (s := { s with inputs := rest }) hbad] at hst
  cases hst
  rfl

theorem faults_of_overrun (h : s.inputs = .bus a :: rest) (hst : step s = .next t) (hok : ¬ IsBusError s a)
    (hop : a.op = .write v) (hb : s.busy = true) (hoff : a.off ≠ 0x08) :
    t.faults = (raiseFault (.overrun a.off v) s).faults := by
  obtain ⟨r, hadm⟩ := Option.ne_none_iff_exists'.1 (admitted_of_not_isBusError hok)
  obtain ⟨hres, -, hreg, hro⟩ := admit_some hadm
  have hmem := regOffset_guarded (hro (by rw [hop]; rfl)) (hreg ▸ hoff)
  rw [(write_of_not_isBusError hok hop).2] at h
  rw [step_write_overrun s a.off v rest h hres hb (hreg ▸ hmem)] at hst
  cases hst
  rfl

theorem faults_of_illegalCommand {e : IllegalWord} (h : s.inputs = .bus ⟨0x00, .word, .write v⟩ :: rest)
    (hst : step s = .next t) (hr : s.inReset = false) (hb : s.busy = false) (hd : decode s.numPins v = .error e) :
    t.faults = (raiseFault (.illegalCommand v) s).faults := by
  rw [illegalWordsAreDroppedAndRecorded.2 s v rest e h hr hb hd] at hst
  cases hst
  rfl

theorem faults_of_legalCommand {i : Instr} (h : s.inputs = .bus ⟨0x00, .word, .write v⟩ :: rest)
    (hst : step s = .next t) (hr : s.inReset = false) (hb : s.busy = false) (hd : decode s.numPins v = .ok i) :
    t.faults = s.faults := by
  rw [stepRunsTheDecodedCommand s v rest i h hr hb hd] at hst
  rw [exec_frame hst]

/-- Beyond a bus error only a write to a guarded register can raise a fault: an overrun needs BUSY = 1, an illegal
command needs a CMD write. -/
theorem faults_of_read_status_or_idle (h : s.inputs = .bus a :: rest) (hst : step s = .next t) (hok : ¬ IsBusError s a)
    (ha : a.op = .read ∨ a.off = 0x08 ∨ (s.busy = false ∧ a.off ≠ 0x00)) : t.faults = s.faults := by
  rw [step_of_inputs h, inputStep] at hst
  obtain ⟨hadm, -⟩ | ⟨r, hadm, heffect⟩ := busAccess_cases hst
  · exact absurd hadm (admitted_of_not_isBusError hok)
  obtain ⟨-, -, hreg, -⟩ := admit_some hadm
  have hguarded {w : Word} (hop : a.op = .write w) (hg : isGuarded r = true) : s.busy = false ∧ a.off ≠ 0x00 :=
    (ha.resolve_left (by simp [hop])).resolve_left (hreg ▸ regOffset_ne_status hg)
  obtain ⟨-, rfl⟩ | ⟨w, hop, ⟨hb, hg, -⟩ | ⟨-, rfl⟩ | ⟨-, hw, hg⟩⟩ := heffect
  · rw [busRead_frame]
  · exact absurd hb (by simp [(hguarded hop hg).1])
  · rfl
  · obtain ⟨rfl, -⟩ | ⟨-, rfl⟩ | ⟨-, rfl⟩ | ⟨-, rfl⟩ | ⟨-, rfl⟩ | ⟨-, rfl⟩ | ⟨-, rfl⟩ := registerWrite_cases hw hg
    · exact absurd hreg (hguarded hop hg).2
    all_goals rfl

/-- Settles O45, one lemma per clause; the two clauses on a CMD write first give the access as one. -/
theorem oneAccessRaisesAtMostOneFault : Obligations.OneAccessRaisesAtMostOneFault := by
  intro s t a rest h hst
  refine ⟨faults_of_busError h hst, fun v => faults_of_overrun h hst, fun w e hok hop hoff hb hd => ?_,
    fun w i hok hop hoff hb hd => ?_, faults_of_read_status_or_idle h hst⟩
  all_goals
    obtain ⟨hr, ha⟩ := write_of_not_isBusError hok hop
    rw [ha, hoff] at h
  · exact faults_of_illegalCommand h hst hr hb hd
  · exact faults_of_legalCommand h hst hr hb hd

end Sys2Proof.Machine
end

section
/-! PROOF. The reset and the host's duties (R133, R134, R136, R137): the state a reset gives, the block while its reset
input is asserted, and an access that keeps the duties. -/

namespace Sys2Proof.Machine

/-! ### The state after a reset (R134) -/

@[simp] theorem numPins_afterReset (d : ConfigDefaults) (n k : Nat) : (State.afterReset d n k).numPins = n :=
  pinsAtReset_length k n 0

/-- At true time 0 the counter reads CNT_INIT (R14). -/
theorem cnt_afterReset (d : ConfigDefaults) (n k : Nat) :
    (State.afterReset d n k).cnt = (State.afterReset d n k).cntInit := BitVec.add_zero _

/-- NUM_PINS is one of 1 to 256 (R7). -/
theorem numPins_bounds : 1 ≤ Config.numPins ∧ Config.numPins ≤ 256 :=
  ⟨Nat.le_add_left 1 _, Config.lastPin.isLt⟩

/-- Settles O50: a block after a reset is at rest, with the results of no READ. -/
theorem resetMeetsTheInvariant : Obligations.ResetMeetsTheInvariant :=
  (restInv_afterReset Config.defaults Config.numPins 0).blockInv

/-- Settles O59: the values of R134 are the fields of `State.afterReset`; the counter reads CNT_INIT at true time 0, and the
pins are as many as NUM_PINS says. -/
theorem resetStateIsThatOfR134 : Obligations.ResetStateIsThatOfR134 := by
  refine ⟨fun d n k => ⟨rfl, rfl, rfl, rfl⟩, ?_⟩
  have hcnt : State.reset.cnt = State.reset.cntInit := cnt_afterReset _ _ _
  have hpins : State.reset.numPins = Config.numPins := numPins_afterReset _ _ _
  exact ⟨rfl, hcnt, rfl, rfl, rfl, rfl, rfl, rfl, rfl, rfl, rfl, rfl, rfl, rfl, rfl, rfl, rfl, rfl, rfl, rfl, rfl, rfl,
    rfl, rfl, rfl, rfl, rfl, hpins ▸ numPins_bounds.1, hpins ▸ numPins_bounds.2⟩

/-! ### The reset input (R133) -/

/-- While reset is asserted neither the Sequencer nor the Clock steps. -/
theorem inputStep_stopped {i : Input} {s : State} (hr : s.inReset = true) (hi : i = .sequencer ∨ ∃ k, i = .clock k) :
    inputStep i s = .next s := by
  obtain rfl | ⟨k, rfl⟩ := hi <;> rw [inputStep, if_pos hr]

theorem inputStep_release {s : State} (hr : s.inReset = true) :
    inputStep (.resetLine false) s = .next (releaseReset s) := by
  simp [inputStep, resetLineStep, hr]

/-- Settles O58: the agents' steps are stopped, an access is refused as a bus error, and the release is one
`releaseReset`. -/
theorem resetInputStopsEveryAgent : Obligations.ResetInputStopsEveryAgent := by
  refine ⟨fun s rest h => ?asserted, fun s rest hr h => ?sequencer, fun s k rest hr h => ?clock,
    fun s a rest hr h => ?access, fun s rest hr h => ?released⟩
  case asserted => exact step_of_inputs h
  case sequencer => exact (step_of_inputs h).trans (inputStep_stopped hr (.inl rfl))
  case clock => exact (step_of_inputs h).trans (inputStep_stopped hr (.inr ⟨k, rfl⟩))
  case access => exact busErrorsHaveNoOtherEffect.2 s a rest h (.inl hr)
  case released =>
    exact ⟨releaseReset { s with inputs := rest }, (step_of_inputs h).trans (inputStep_release hr), rfl,
      numPins_afterReset s.defaults s.numPins s.draws⟩

/-! ### The host's duties (R137) -/

theorem busWrite_not_overrun {off : BitVec 6} {r : Reg} {v : Word} {s : State} (h : (s.busy && isGuarded r) = false) :
    busWrite off r v s = registerWrite r v { s with response := .written } :=
  if_neg (Bool.eq_false_iff.1 h)

theorem busRead_response (r : Reg) (s : State) : ∃ v, (busRead r s).response = .data v := by
  unfold busRead
  split <;> exact ⟨_, rfl⟩

/-- Of the write rules only CMD's can raise a fault, for an illegal word (R120). -/
theorem registerWrite_raises_nothing {r : Reg} {v : Word} {s t : State}
    (h : registerWrite r v s = .next t) (hlegal : r = .cmd → ∃ i, decode s.numPins v = .ok i) :
    t.faults = s.faults ∧ t.response = s.response := by
  cases r with
  | cmd =>
    obtain ⟨i, hd⟩ := hlegal rfl
    rw [registerWrite, commandWrite_legal hd] at h
    rw [exec_frame h]
    exact ⟨rfl, rfl⟩
  | _ => cases h; exact ⟨rfl, rfl⟩

/-- The duties leave an access no cause of a fault: it is admitted, no overrun, and its command word is legal. -/
theorem busAccess_keepsDuty {a : BusAccess} {s t : State} (hduty : KeepsDuty s a) (h : busAccess a s = .next t) :
    t.faults = s.faults ∧ t.response ≠ .error := by
  obtain ⟨r, hadm, -, hguard, hlegal⟩ := hduty
  rw [busAccess, hadm] at h
  cases hop : a.op with
  | read =>
    obtain ⟨v, hv⟩ := busRead_response r s
    rw [hop] at h
    cases h
    exact ⟨by rw [busRead_frame], by rw [hv]; nofun⟩
  | write v =>
    have hno : (s.busy && isGuarded r) = false := by simpa [hop, isWrite] using hguard
    simp only [hop, busWrite_not_overrun hno] at h
    obtain ⟨hfaults, hresponse⟩ := registerWrite_raises_nothing h fun hr => hlegal v hr hop
    exact ⟨hfaults, by rw [hresponse]; nofun⟩

/-- Settles O47: the step is the access, in a state that differs only in its inputs. -/
theorem dutifulHostRaisesNoFault : Obligations.DutifulHostRaisesNoFault := by
  intro s t a rest h hduty hst
  rw [step_of_inputs h] at hst
  exact busAccess_keepsDuty (s := { s with inputs := rest }) hduty hst

end Sys2Proof.Machine
end
